-- ==== Sys2Proof/Word.lean ====
section
/-! DEFINITION. The word types of the block. A word is 36 bits and an address 18 (00_scope.md R7, R11); bit 0 is the
least significant bit and bit 35 the sign bit (R10). -/

namespace Sys2Proof

/-- `Word36` (R11): a 36-bit memory word, register or instruction. -/
abbrev Word := BitVec 36

/-- `Word18` (R11): an 18-bit address, also the width of PC (R24). -/
abbrev Addr := BitVec 18

/-- The number of an accumulator, as the fields AC and X hold it (R7, R81). -/
abbrev AcNum := BitVec 4

end Sys2Proof
end

