-- ==== Sys2Proof/Machine/Types.lean ====
section
/-! DEFINITION. The plain data that State holds, below State itself: memory areas (20_memory.md R53), the decoder's
selection (40_decode_dispatch.md R110), the slot (10_state.md R21), the terminal outcomes (60_exceptions.md R270 to R273),
the host operations (10_state.md R35) and the replies of the service layer (44_monitor_unspecified.md R240). -/

namespace Sys2Proof.Machine

/-! ## Memory -/

/-- An area `{start, end, flags, data[]}` (R53): a contiguous run of words `[start, end)`. `end` is `start` plus the number
of words. The block never reads `flags`, and the spec gives it no width and no value (log 14). -/
structure Area where
  start : Nat
  flags : Nat
  data : List Word
  deriving DecidableEq, Repr, Inhabited

/-- The end of an area, the first address above it (R53). -/
def Area.stop (a : Area) : Nat := a.start + a.data.length

/-- The memory model: the list of areas (R31, R53). An address that no area covers is unmapped and reads as no word (R55). -/
abbrev Memory := List Area

/-- `init(memory)` (R54): "reset to zero areas. Initial state." -/
def Memory.init : Memory := []

/-! ## The decoder's selection -/

/-- Read-operands uops (R116, R136). -/
inductive Rd where
  | none | mem | imm | ac | acMem | acImm
  deriving DecidableEq, Repr

/-- Operate uops (R116, R137). -/
inductive Op where
  | pass | neg | add | sub | jump | skip | jrst | muuo
  deriving DecidableEq, Repr

/-- Write-back uops (R116, R138). -/
inductive Wb where
  | none | ac | mem | both | self | acNz
  deriving DecidableEq, Repr

/-- Why the decoder refuses a word (R116, R271). -/
inductive Reason where
  /-- An opcode the source does not name (R250). Safe: no meaning is claimed. -/
  | unlisted
  /-- A gated variant with its gate off (R86, R111). Safe. -/
  | notAdmitted
  /-- EXCH (R247). Safe. -/
  | exchUnspecified
  /-- DATAI, DATAO, CONO, CONI (R252, R254 to R256). Safe. -/
  | ioUnspecified
  /-- XCTR, XCTRI (R259, R260). Safe. -/
  | xctrUnspecified
  /-- JRST with AC not 0 (R203). Safe. -/
  | jrstAcNonzero
  deriving DecidableEq, Repr

/-- The selection `Sel` (R110). -/
inductive Sel where
  | generic (w : Word) (rd : Rd) (op : Op) (cond : BitVec 3) (wb : Wb)
  | fastJump (w : Word) (target : Addr)
  | refuse (w : Word) (reason : Reason)
  deriving DecidableEq, Repr

/-- The decoded word, which every selection holds (R110). -/
def Sel.word : Sel → Word
  | .generic w _ _ _ _ => w
  | .fastJump w _ => w
  | .refuse w _ => w

/-- A dispatch-table entry (R21). -/
inductive Slot where
  | stub
  | decoded (sel : Sel)
  | unmapped
  deriving DecidableEq, Repr

/-- The dispatch table: the slots that are not STUB, by rising address; an address that is not listed holds STUB, which is
every slot's reset value (R33). -/
abbrev SlotTable := List (Nat × Slot)

/-! ## Terminal outcomes -/

/-- What an unmapped access was (R273). -/
inductive Access where
  | fetch | read
  deriving DecidableEq, Repr

/-- The fault kinds with the information each records (R273). -/
inductive FaultKind where
  /-- Entering an UNMAPPED slot, decoding a STUB whose word is unmapped, or an operand or indirect read of an unmapped
  address (R60, R121, R122). The spec's own fault, so neither safe nor unsafe by itself. -/
  | unmapped (a : Addr) (acc : Access)
  /-- Reading an accumulator that has never been written (R26, R32). The spec's own fault; it errs toward unprovable
  (log 3). -/
  | undefinedRegister (i : AcNum)
  /-- An area allocation that fails (R73). The spec's own fault. -/
  | outOfMemory
  /-- A monitor call that the service does not implement (R246), with its call number (log 26). -/
  | muuoUnimplemented (n : Nat)
  deriving DecidableEq, Repr

/-- Why a run is refused (R271): the decoder's reasons and those of the host operations. -/
inductive RefuseReason where
  | instr (r : Reason)
  /-- An `add_memory` that would break the area invariant (R58). Safe. -/
  | areaOverlap
  /-- A word with a bit at position 36 or above (R74). Safe. -/
  | badWord
  /-- A host address outside 18 bits (R134), or `set_address(a)` with `a ≠ -1` (R59). Safe. -/
  | badAddress
  /-- A second `run` (R135). Safe. -/
  | runTwice
  /-- An unused selection or slot code (R116, R117). Safe. -/
  | badCode
  deriving DecidableEq, Repr

/-- The run status (R34): Running, or one of the three terminal states. -/
inductive Status where
  | running
  | fault (k : FaultKind)
  | refused (r : RefuseReason)
  | exit
  deriving DecidableEq, Repr

/-! ## The outside world -/

/-- The host operations (R35), and the iteration of R59. Addresses and words are plain numbers here, since an argument out
of range is refused by name (R74, R134). `add_memory(a, n, data)` holds `n` words, so `n` is the length of `data` (R57). -/
inductive HostOp where
  | addMemory (a : Nat) (data : List Nat)
  | setWordAt (a : Nat) (w : Nat)
  | writeMemory (a : Nat) (w : Nat)
  | invalidateWord (a : Nat)
  | purePage (a : Nat)
  | unpurePage (a : Nat)
  | unmappedPage (a : Nat)
  | run (start : Nat) (memory : Memory)
  | getWordAt (a : Nat)
  | setAddress (a : Int)
  | getNext
  deriving DecidableEq, Repr

/-- What a host operation gives back to the host. -/
inductive HostReply where
  /-- Done; for `add_memory`, the return value 0 (R57). -/
  | done
  /-- The error of `add_memory` when its address falls in an existing area (R57). -/
  | duplicate
  /-- The error of `add_memory` when the area index cannot grow (R57, R73). -/
  | outOfMemory
  /-- The word read; `none` is the sentinel -1 (R55, R59). -/
  | word (w : Option Word)
  deriving DecidableEq, Repr

/-- What a service changes when it lets the program go on, `Continue(S')` of R240: the host steps taken inside it, in order
(R35, log 19), then its memory writes, each through `write_memory`, then the accumulators it writes, `flags` if it writes
them, and the PC at which execution resumes. -/
structure ServiceEffect where
  host : List HostOp
  mem : List (Addr × Word)
  fm : List (AcNum × Word)
  flags : Option (BitVec 18)
  pc : Addr
  deriving DecidableEq, Repr

/-- The four services that `its_muuo` implements (R242 to R245); every other call number is unimplemented (R246). -/
inductive ItsService where
  | dotOpen | dotSuset | dotEval | dotLogout
  deriving DecidableEq, Repr

/-- The faults that a service can end in (R240): "the faults of the memory it touches", and MuuoUnimplemented for a call that
it turns away, with the number of that call (R246). -/
inductive ServiceFault where
  | outOfMemory
  | unmapped (a : Addr) (acc : Access)
  | unimplemented
  deriving DecidableEq, Repr

/-- The outcomes to which `its_service` relates a call of `.OPEN`, `.SUSET` or `.EVAL` (R240), and the relation to no outcome
at all (R286). `.LOGOUT` has the one outcome Exit (R245, R272) and takes no reply. DESIGN CHOICE (log 19): only `Continue`
holds host steps; the spec names no outcome for a service that takes host steps and then ends in Exit, in a fault or never
returns, and the model leaves no trace of them there. -/
inductive ServiceReply where
  | cont (eff : ServiceEffect)
  | fault (k : ServiceFault)
  | noReturn
  deriving DecidableEq, Repr, Inhabited

/-- Parameter `ac_alias` (10_state.md R27): whether operand addresses 0 to 15 reach the accumulators. -/
inductive AcAlias where
  | separate | aliased
  deriving DecidableEq, Repr

end Sys2Proof.Machine
end

