-- ==== Sys2Proof/Machine/Memory.lean ====
section
/-! DEFINITION. The area model of memory (20_memory.md R53 to R59) and the slot table as a sorted list
(10_state.md R21). Both are sparse: an address that is in no area is unmapped, and one that the slot table does not list
holds STUB. -/

namespace Sys2Proof.Machine

/-- `SLOT_COUNT` (00_scope.md R8): the number of addresses, and of slots. -/
def addressCount : Nat := 2 ^ 18

/-! ## Areas -/

/-- The area covers the address: `start ≤ a < end` (R53). -/
def Area.covers (ar : Area) (a : Nat) : Bool := ar.start ≤ a && a < ar.stop

/-- `find_area(a)` (R53). The source searches by bisection; on a list that keeps the area invariant any search finds the one
area that covers `a`. -/
def findArea (m : Memory) (a : Nat) : Option Area := m.find? (·.covers a)

/-- `get_word_at(a)` (R55): the word of the covering area, or no word. -/
def getWord (m : Memory) (a : Nat) : Option Word :=
  (findArea m a).bind fun ar => ar.data[a - ar.start]?

/-- The store half of `set_word_at` in an area that covers `a` (R56): `data[a - start] <- w`. Where no area covers `a` the
memory is unchanged. -/
def putWord : Memory → Nat → Word → Memory
  | [], _, _ => []
  | ar :: m, a, w =>
    if ar.covers a then { ar with data := ar.data.set (a - ar.start) w } :: m else ar :: putWord m a w

/-- Insertion that keeps the list sorted by `start`, "by shifting entries" (R56, R57). -/
def insertArea (ar : Area) : Memory → Memory
  | [] => [ar]
  | b :: m => if ar.start < b.start then ar :: b :: m else b :: insertArea ar m

/-- The range `[lo, hi)` meets an area (R58). -/
def overlapsArea (m : Memory) (lo hi : Nat) : Bool := m.any fun ar => ar.start < hi && lo < ar.stop

/-- The words of an area with their addresses. -/
def Area.cells (ar : Area) : List (Nat × Word) := ar.data.mapIdx fun i w => (ar.start + i, w)

/-- Every mapped word with its address, in address order (R59). -/
def memCells (m : Memory) : List (Nat × Word) := m.flatMap Area.cells

/-- The next word of the iteration after the cursor, in address order (R59). -/
def nextCell (m : Memory) (cursor : Option Nat) : Option (Nat × Word) :=
  match cursor with
  | none => (memCells m).head?
  | some c => (memCells m).find? fun cell => c < cell.1

/-- The invariant of R53: sorted by `start`, no two areas overlap, none is empty and none reaches past the last address. -/
abbrev Memory.wf (m : Memory) : Prop :=
  m.Pairwise (fun a b => a.stop ≤ b.start) ∧ ∀ a ∈ m, a.data ≠ [] ∧ a.stop ≤ addressCount

/-! ## Slots -/

/-- `Slot[a]` (R21); an address that is not listed holds STUB (R33). -/
def slotGet : SlotTable → Nat → Slot
  | [], _ => .stub
  | (k, v) :: t, a => if k = a then v else slotGet t a

/-- Takes the entry of `a` out, so that it holds STUB. -/
def slotErase (t : SlotTable) (a : Nat) : SlotTable := t.filter fun e => e.1 != a

/-- Writes an entry in its place. -/
def slotInsert : SlotTable → Nat → Slot → SlotTable
  | [], a, v => [(a, v)]
  | (k, u) :: t, a, v =>
    if a < k then (a, v) :: (k, u) :: t else if a = k then (a, v) :: t else (k, u) :: slotInsert t a v

/-- `Slot[a] <- v`. -/
def slotSet (t : SlotTable) (a : Nat) (v : Slot) : SlotTable :=
  if v = .stub then slotErase t a else slotInsert t a v

/-- `PAGE_WORDS` at the value decided (00_scope.md R8, log 21). -/
def pageWords : Nat := 1024

/-- The first address of `Page(a)` (40_decode_dispatch.md R134). -/
def pageBase (a : Nat) : Nat := a / pageWords * pageWords

/-- The addresses of `Page(a)`, rising (R134). -/
def pageAddrs (a : Nat) : List Nat := List.range' (pageBase a) pageWords

/-- The page-fill port (R118, R131 to R133): every slot of `Page(a)` takes the value that `f` gives its address. -/
def slotFill (t : SlotTable) (a : Nat) (f : Nat → Slot) : SlotTable :=
  t.filter (fun e => e.1 < pageBase a)
    ++ ((pageAddrs a).map fun k => (k, f k)).filter (fun e => e.2 != .stub)
    ++ t.filter (fun e => pageBase a + pageWords ≤ e.1)

/-- The canonical form of the slot table: addresses strictly rising and below `SLOT_COUNT`, and no entry STUB. -/
abbrev SlotTable.wf (t : SlotTable) : Prop :=
  t.Pairwise (fun x y => x.1 < y.1) ∧ ∀ e ∈ t, e.1 < addressCount ∧ e.2 ≠ .stub

end Sys2Proof.Machine
end

