-- ==== Sys2Proof/Config.lean ====
section
/-! DEFINITION. The parameters of 00_scope.md R8 that the model takes as an argument, and the free values: constants with no
body, of which nothing can be proved (R12: "A draw is a fresh value chosen by no law"). The parameters that the model takes
at the value decided (`SLOT_COUNT`, `PAGE_WORDS`, `muuo_opcodes`, `xctr_opcodes`) are in the files that use them (log 21). -/

namespace Sys2Proof

/-- The open parameters of R8. State holds one such record, and no step writes it, so every statement about a state is for
every value of each parameter (log 1). -/
structure Config where
  /-- Whether operand addresses 0 to 15 reach FM (10_state.md R27); OPEN. -/
  acAlias : Machine.AcAlias
  /-- The gate of MOVES, MOVNI, MOVNM, MOVNS, ADDM, ADDB, SUBI, SUBM and SUBB (30_encoding.md R86). -/
  admitModeVariants : Bool
  /-- The gate of the JUMP and SKIP conditions other than L (30_encoding.md R86). -/
  admitCmpClass : Bool
  /-- The call numbers of words and effective addresses, as far as they are laid down (44_monitor_unspecified.md R240, R246;
  log 26). -/
  calls : List ((Word × Addr) × Nat)
  /-- Which of the four services a call number is, or none of them, as far as it is laid down (R242 to R246; log 26). -/
  services : List (Nat × Option Machine.ItsService)
  deriving DecidableEq, Repr

/-- The draw of `flags` (`flags_draw` of R8; 10_state.md R28): the value that the n-th draw gives (log 6). -/
opaque Config.flagsDraw : Nat → BitVec 18

/-- The draw `oom` of R8 (20_memory.md R73): whether the allocation of the n-th draw fails (log 7). -/
opaque Config.allocFails : Nat → Bool

/-- The flags field of an area made at the n-th draw, to which the spec gives no value (20_memory.md R53, log 14). -/
opaque Config.areaFlags : Nat → Nat

/-- The service of a call number, or none of the four; the numbers are not in the source (44_monitor_unspecified.md R242 to
R246; log 26). The free call number and the free reply of a service, `Config.callNumber` and `Config.itsService`, stand in
Machine/State.lean, since they take the state. -/
opaque Config.serviceAt : Nat → Option Machine.ItsService

end Sys2Proof
end

