-- ==== Sys2Proof/Syntax.lean ====
section
/-! DEFINITION. The instructions: one constructor for each of the 80 rows of spec/opcode_table.json. The operand fields are
those of the two formats, 30_encoding.md R81 and R82. -/

namespace Sys2Proof

/-- The operand fields of the basic format (R81): AC `w[26:23]`, I `w[22]`, X `w[21:18]`, Y `w[17:0]`. -/
structure Basic where
  ac : AcNum
  ind : Bool
  x : AcNum
  y : Addr
  deriving DecidableEq, Repr

/-- The operand fields of the IO format (R82): DEV `w[32:26]`, I `w[22]`, X `w[21:18]`, Y `w[17:0]`. The function FN is the
constructor. -/
structure IoFields where
  dev : BitVec 7
  ind : Bool
  x : AcNum
  y : Addr
  deriving DecidableEq, Repr

/-- The instructions, in the order of the opcode table. JRST has three rows: the fast path (R202), the generic path (R201)
and AC not 0 (R203). `unlisted` is the catch-all row (R250) and keeps the whole word. -/
inductive Instr where
  | blki (f : IoFields)
  | datai (f : IoFields)
  | blko (f : IoFields)
  | datao (f : IoFields)
  | cono (f : IoFields)
  | coni (f : IoFields)
  | consz (f : IoFields)
  | conso (f : IoFields)
  | dotIot (f : Basic)
  | dotOpen (f : Basic)
  | dotOper (f : Basic)
  | dotCall (f : Basic)
  | dotUset (f : Basic)
  | dotBreak (f : Basic)
  | dotStatus (f : Basic)
  | dotAccess (f : Basic)
  | muuo050 (f : Basic)
  | muuo051 (f : Basic)
  | muuo052 (f : Basic)
  | muuo053 (f : Basic)
  | muuo054 (f : Basic)
  | muuo055 (f : Basic)
  | muuo056 (f : Basic)
  | muuo057 (f : Basic)
  | muuo060 (f : Basic)
  | muuo061 (f : Basic)
  | muuo062 (f : Basic)
  | muuo063 (f : Basic)
  | muuo064 (f : Basic)
  | muuo065 (f : Basic)
  | muuo066 (f : Basic)
  | muuo067 (f : Basic)
  | muuo070 (f : Basic)
  | muuo071 (f : Basic)
  | muuo072 (f : Basic)
  | muuo073 (f : Basic)
  | muuo074 (f : Basic)
  | muuo075 (f : Basic)
  | muuo076 (f : Basic)
  | muuo077 (f : Basic)
  | jsys (f : Basic)
  | xctri (f : Basic)
  | xctr (f : Basic)
  | exch (f : Basic)
  | jrstFast (y : Addr)
  | jrst (ind : Bool) (x : AcNum) (y : Addr)
  | jrstAc (f : Basic)
  | move (f : Basic)
  | movei (f : Basic)
  | movem (f : Basic)
  | moves (f : Basic)
  | movn (f : Basic)
  | movni (f : Basic)
  | movnm (f : Basic)
  | movns (f : Basic)
  | add (f : Basic)
  | addi (f : Basic)
  | addm (f : Basic)
  | addb (f : Basic)
  | sub (f : Basic)
  | subi (f : Basic)
  | subm (f : Basic)
  | subb (f : Basic)
  | jump (f : Basic)
  | jumpl (f : Basic)
  | jumpe (f : Basic)
  | jumple (f : Basic)
  | jumpa (f : Basic)
  | jumpge (f : Basic)
  | jumpn (f : Basic)
  | jumpg (f : Basic)
  | skip (f : Basic)
  | skipl (f : Basic)
  | skipe (f : Basic)
  | skiple (f : Basic)
  | skipa (f : Basic)
  | skipge (f : Basic)
  | skipn (f : Basic)
  | skipg (f : Basic)
  | unlisted (w : Word)
  deriving DecidableEq, Repr

end Sys2Proof
end

