-- ==== Sys2Proof/WellFormed.lean ====
section
/-! DEFINITION. When a term of `Instr` is an instruction of its own row of the opcode table. The rows of JRST exclude each
other (40_decode_dispatch.md R111, 43_jump_skip.md R201 to R203), and `unlisted` stands only for a word that no other row
matches (44_monitor_unspecified.md R250). -/

namespace Sys2Proof

/-- The monitor-call opcodes, `muuo_opcodes` at the value decided in 00_scope.md R8: 040 to 077, and 0104 (log 21). -/
def muuoOpcodes : List Nat := List.range' 0o040 32 ++ [0o104]

/-- The XCTR-class opcodes, `xctr_opcodes` at the value decided in 00_scope.md R8 (log 21). -/
def xctrOpcodes : List Nat := [0o102, 0o103]

/-- The opcodes of EXCH and JRST (R111). -/
def singleOpcodes : List Nat := [0o250, 0o254]

/-- The opcodes with a row in the selection ROM (30_encoding.md R86). -/
def romOpcodes : List Nat :=
  List.range' 0o200 4 ++ List.range' 0o210 4 ++ List.range' 0o270 8 ++ List.range' 0o320 16

/-- Every opcode of the basic format that has a row of its own in the opcode table. -/
def namedOpcodes : List Nat := muuoOpcodes ++ xctrOpcodes ++ singleOpcodes ++ romOpcodes

/-- The word has neither the IO format (`w[35:33] = 7`, R82) nor a named opcode, so only the catch-all row matches it. -/
def isUnlisted (w : Word) : Bool :=
  w.extractLsb' 33 3 != 7 && !namedOpcodes.contains (w.extractLsb' 27 9).toNat

/-- Well-formedness: the checks that the encoding of an instruction needs, each constructor named. -/
def Instr.wf : Instr → Bool
  | .blki _ => true
  | .datai _ => true
  | .blko _ => true
  | .datao _ => true
  | .cono _ => true
  | .coni _ => true
  | .consz _ => true
  | .conso _ => true
  | .dotIot _ => true
  | .dotOpen _ => true
  | .dotOper _ => true
  | .dotCall _ => true
  | .dotUset _ => true
  | .dotBreak _ => true
  | .dotStatus _ => true
  | .dotAccess _ => true
  | .muuo050 _ => true
  | .muuo051 _ => true
  | .muuo052 _ => true
  | .muuo053 _ => true
  | .muuo054 _ => true
  | .muuo055 _ => true
  | .muuo056 _ => true
  | .muuo057 _ => true
  | .muuo060 _ => true
  | .muuo061 _ => true
  | .muuo062 _ => true
  | .muuo063 _ => true
  | .muuo064 _ => true
  | .muuo065 _ => true
  | .muuo066 _ => true
  | .muuo067 _ => true
  | .muuo070 _ => true
  | .muuo071 _ => true
  | .muuo072 _ => true
  | .muuo073 _ => true
  | .muuo074 _ => true
  | .muuo075 _ => true
  | .muuo076 _ => true
  | .muuo077 _ => true
  | .jsys _ => true
  | .xctri _ => true
  | .xctr _ => true
  | .exch _ => true
  | .jrstFast _ => true
  | .jrst ind x _ => ind || x != 0
  | .jrstAc f => f.ac != 0
  | .move _ => true
  | .movei _ => true
  | .movem _ => true
  | .moves _ => true
  | .movn _ => true
  | .movni _ => true
  | .movnm _ => true
  | .movns _ => true
  | .add _ => true
  | .addi _ => true
  | .addm _ => true
  | .addb _ => true
  | .sub _ => true
  | .subi _ => true
  | .subm _ => true
  | .subb _ => true
  | .jump _ => true
  | .jumpl _ => true
  | .jumpe _ => true
  | .jumple _ => true
  | .jumpa _ => true
  | .jumpge _ => true
  | .jumpn _ => true
  | .jumpg _ => true
  | .skip _ => true
  | .skipl _ => true
  | .skipe _ => true
  | .skiple _ => true
  | .skipa _ => true
  | .skipge _ => true
  | .skipn _ => true
  | .skipg _ => true
  | .unlisted w => isUnlisted w

end Sys2Proof
end

