-- ==== Sys2Proof/Decode.lean ====
section
/-! DEFINITION. The decoder from a word to its row of the opcode table, and the encoder. The decoder is total: the table's
last row takes every word that no other row matches. What the block's own decoder `DEC` selects for a word is in
Machine/Select.lean. -/

namespace Sys2Proof

/-! ## Fields -/

/-- OP, `w[35:27]` (R81). -/
def opOf (w : Word) : BitVec 9 := w.extractLsb' 27 9

/-- AC, `w[26:23]` (R81). -/
def acOf (w : Word) : AcNum := w.extractLsb' 23 4

/-- I, `w[22]` (R81, R82). -/
def indOf (w : Word) : Bool := w.getLsbD 22

/-- X, `w[21:18]` (R81, R82). -/
def xOf (w : Word) : AcNum := w.extractLsb' 18 4

/-- Y, `w[17:0]` (R81, R82). -/
def yOf (w : Word) : Addr := w.extractLsb' 0 18

/-- The class bits `w[35:33]`; 7 is the IO format (R82). -/
def classOf (w : Word) : BitVec 3 := w.extractLsb' 33 3

/-- DEV, `w[32:26]` (R82). -/
def devOf (w : Word) : BitVec 7 := w.extractLsb' 26 7

/-- FN, `w[25:23]` (R82). -/
def fnOf (w : Word) : BitVec 3 := w.extractLsb' 23 3

/-- The operand fields of a word of the basic format. -/
def basicOf (w : Word) : Basic := ⟨acOf w, indOf w, xOf w, yOf w⟩

/-- The operand fields of a word of the IO format. -/
def ioOf (w : Word) : IoFields := ⟨devOf w, indOf w, xOf w, yOf w⟩

/-! ## Decoding -/

/-- The rows of the IO format, by FN (R82, R251 to R258). -/
def decodeIo (fn : BitVec 3) (f : IoFields) : Instr :=
  match fn.toNat with
  | 0 => .blki f
  | 1 => .datai f
  | 2 => .blko f
  | 3 => .datao f
  | 4 => .cono f
  | 5 => .coni f
  | 6 => .consz f
  | _ => .conso f

/-- The three rows of JRST in the order of their priority: AC not 0 (R203), the fast path (R202), the generic path (R201). -/
def decodeJrst (f : Basic) : Instr :=
  if f.ac ≠ 0 then .jrstAc f
  else if f.ind = false ∧ f.x = 0 then .jrstFast f.y
  else .jrst f.ind f.x f.y

/-- The rows of the basic format with one opcode each (R86, R87), JRST and the catch-all among them. -/
def decodeBasic (op : Nat) (f : Basic) (w : Word) : Instr :=
  match op with
  | 0o040 => .dotIot f
  | 0o041 => .dotOpen f
  | 0o042 => .dotOper f
  | 0o043 => .dotCall f
  | 0o044 => .dotUset f
  | 0o045 => .dotBreak f
  | 0o046 => .dotStatus f
  | 0o047 => .dotAccess f
  | 0o050 => .muuo050 f
  | 0o051 => .muuo051 f
  | 0o052 => .muuo052 f
  | 0o053 => .muuo053 f
  | 0o054 => .muuo054 f
  | 0o055 => .muuo055 f
  | 0o056 => .muuo056 f
  | 0o057 => .muuo057 f
  | 0o060 => .muuo060 f
  | 0o061 => .muuo061 f
  | 0o062 => .muuo062 f
  | 0o063 => .muuo063 f
  | 0o064 => .muuo064 f
  | 0o065 => .muuo065 f
  | 0o066 => .muuo066 f
  | 0o067 => .muuo067 f
  | 0o070 => .muuo070 f
  | 0o071 => .muuo071 f
  | 0o072 => .muuo072 f
  | 0o073 => .muuo073 f
  | 0o074 => .muuo074 f
  | 0o075 => .muuo075 f
  | 0o076 => .muuo076 f
  | 0o077 => .muuo077 f
  | 0o102 => .xctri f
  | 0o103 => .xctr f
  | 0o104 => .jsys f
  | 0o200 => .move f
  | 0o201 => .movei f
  | 0o202 => .movem f
  | 0o203 => .moves f
  | 0o210 => .movn f
  | 0o211 => .movni f
  | 0o212 => .movnm f
  | 0o213 => .movns f
  | 0o250 => .exch f
  | 0o254 => decodeJrst f
  | 0o270 => .add f
  | 0o271 => .addi f
  | 0o272 => .addm f
  | 0o273 => .addb f
  | 0o274 => .sub f
  | 0o275 => .subi f
  | 0o276 => .subm f
  | 0o277 => .subb f
  | 0o320 => .jump f
  | 0o321 => .jumpl f
  | 0o322 => .jumpe f
  | 0o323 => .jumple f
  | 0o324 => .jumpa f
  | 0o325 => .jumpge f
  | 0o326 => .jumpn f
  | 0o327 => .jumpg f
  | 0o330 => .skip f
  | 0o331 => .skipl f
  | 0o332 => .skipe f
  | 0o333 => .skiple f
  | 0o334 => .skipa f
  | 0o335 => .skipge f
  | 0o336 => .skipn f
  | 0o337 => .skipg f
  | _ => .unlisted w

/-- The row of the opcode table that a word belongs to. The IO test comes first (40_decode_dispatch.md R111). -/
def decode (w : Word) : Instr :=
  if classOf w = 7 then decodeIo (fnOf w) (ioOf w) else decodeBasic (opOf w).toNat (basicOf w) w

/-- Why bits are no instruction word: a bit at position 36 or above is set (20_memory.md R74). -/
inductive DecodeError where
  | badWord
  deriving DecidableEq, Repr

/-- The decoder on any number: the block holds only 36-bit values (R74), and every one of them has a row. -/
def decodeNat (n : Nat) : Except DecodeError Instr :=
  if n < 2 ^ 36 then .ok (decode (BitVec.ofNat 36 n)) else .error .badWord

/-- The host's question about a table word. One instruction is one 36-bit word (R80), so the word is its own numbering, and
bits that the table leaves out are 0 in `w` already. -/
def decodeTableWord (_nbits w : Nat) : Option Instr :=
  match decodeNat w with
  | .ok i => some i
  | .error _ => none

/-! ## Encoding -/

/-- `OP·2^27 + AC·2^23 + I·2^22 + X·2^18 + Y` (R81). -/
def assemble (op : BitVec 9) (f : Basic) : Word :=
  op ++ f.ac ++ BitVec.ofBool f.ind ++ f.x ++ f.y

/-- A word of the IO format (R82). -/
def assembleIo (fn : BitVec 3) (f : IoFields) : Word :=
  (7 : BitVec 3) ++ f.dev ++ fn ++ BitVec.ofBool f.ind ++ f.x ++ f.y

/-- The word of an instruction, from the match column of spec/opcode_table.json. -/
def encode : Instr → Word
  | .blki f => assembleIo 0 f
  | .datai f => assembleIo 1 f
  | .blko f => assembleIo 2 f
  | .datao f => assembleIo 3 f
  | .cono f => assembleIo 4 f
  | .coni f => assembleIo 5 f
  | .consz f => assembleIo 6 f
  | .conso f => assembleIo 7 f
  | .dotIot f => assemble 0o040 f
  | .dotOpen f => assemble 0o041 f
  | .dotOper f => assemble 0o042 f
  | .dotCall f => assemble 0o043 f
  | .dotUset f => assemble 0o044 f
  | .dotBreak f => assemble 0o045 f
  | .dotStatus f => assemble 0o046 f
  | .dotAccess f => assemble 0o047 f
  | .muuo050 f => assemble 0o050 f
  | .muuo051 f => assemble 0o051 f
  | .muuo052 f => assemble 0o052 f
  | .muuo053 f => assemble 0o053 f
  | .muuo054 f => assemble 0o054 f
  | .muuo055 f => assemble 0o055 f
  | .muuo056 f => assemble 0o056 f
  | .muuo057 f => assemble 0o057 f
  | .muuo060 f => assemble 0o060 f
  | .muuo061 f => assemble 0o061 f
  | .muuo062 f => assemble 0o062 f
  | .muuo063 f => assemble 0o063 f
  | .muuo064 f => assemble 0o064 f
  | .muuo065 f => assemble 0o065 f
  | .muuo066 f => assemble 0o066 f
  | .muuo067 f => assemble 0o067 f
  | .muuo070 f => assemble 0o070 f
  | .muuo071 f => assemble 0o071 f
  | .muuo072 f => assemble 0o072 f
  | .muuo073 f => assemble 0o073 f
  | .muuo074 f => assemble 0o074 f
  | .muuo075 f => assemble 0o075 f
  | .muuo076 f => assemble 0o076 f
  | .muuo077 f => assemble 0o077 f
  | .jsys f => assemble 0o104 f
  | .xctri f => assemble 0o102 f
  | .xctr f => assemble 0o103 f
  | .exch f => assemble 0o250 f
  | .jrstFast y => assemble 0o254 ⟨0, false, 0, y⟩
  | .jrst ind x y => assemble 0o254 ⟨0, ind, x, y⟩
  | .jrstAc f => assemble 0o254 f
  | .move f => assemble 0o200 f
  | .movei f => assemble 0o201 f
  | .movem f => assemble 0o202 f
  | .moves f => assemble 0o203 f
  | .movn f => assemble 0o210 f
  | .movni f => assemble 0o211 f
  | .movnm f => assemble 0o212 f
  | .movns f => assemble 0o213 f
  | .add f => assemble 0o270 f
  | .addi f => assemble 0o271 f
  | .addm f => assemble 0o272 f
  | .addb f => assemble 0o273 f
  | .sub f => assemble 0o274 f
  | .subi f => assemble 0o275 f
  | .subm f => assemble 0o276 f
  | .subb f => assemble 0o277 f
  | .jump f => assemble 0o320 f
  | .jumpl f => assemble 0o321 f
  | .jumpe f => assemble 0o322 f
  | .jumple f => assemble 0o323 f
  | .jumpa f => assemble 0o324 f
  | .jumpge f => assemble 0o325 f
  | .jumpn f => assemble 0o326 f
  | .jumpg f => assemble 0o327 f
  | .skip f => assemble 0o330 f
  | .skipl f => assemble 0o331 f
  | .skipe f => assemble 0o332 f
  | .skiple f => assemble 0o333 f
  | .skipa f => assemble 0o334 f
  | .skipge f => assemble 0o335 f
  | .skipn f => assemble 0o336 f
  | .skipg f => assemble 0o337 f
  | .unlisted w => w

end Sys2Proof
end

