-- ==== Sys2Proof/Machine/Select.lean ====
section
/-! DEFINITION. The block's decoder `DEC` (40_decode_dispatch.md R111) with its selection ROM (30_encoding.md R86), and the
numeric codes of selections and slots (R116, R117). -/

namespace Sys2Proof.Machine

/-- The gate of a ROM row (R86). -/
inductive Gate where
  | open | modeVariants | cmpClass
  deriving DecidableEq, Repr

/-- The gate's value under the parameters of R8. -/
def Gate.admits (c : Config) : Gate → Bool
  | .open => true
  | .modeVariants => c.admitModeVariants
  | .cmpClass => c.admitCmpClass

/-- A row of `RD_ROM`, `OP_ROM` and `WB_ROM` with its gate (R85, R86). -/
structure RomRow where
  rd : Rd
  op : Op
  wb : Wb
  gate : Gate
  deriving DecidableEq, Repr

/-- The selection ROM (R86), in the order of the rule's table. JRST is not here: `DEC` takes it before the ROM. -/
def rom (op : Nat) : Option RomRow :=
  match op with
  | 0o200 => some ⟨.mem, .pass, .ac, .open⟩
  | 0o201 => some ⟨.imm, .pass, .ac, .open⟩
  | 0o202 => some ⟨.ac, .pass, .mem, .open⟩
  | 0o203 => some ⟨.mem, .pass, .self, .modeVariants⟩
  | 0o210 => some ⟨.mem, .neg, .ac, .open⟩
  | 0o211 => some ⟨.imm, .neg, .ac, .modeVariants⟩
  | 0o212 => some ⟨.ac, .neg, .mem, .modeVariants⟩
  | 0o213 => some ⟨.mem, .neg, .self, .modeVariants⟩
  | 0o270 => some ⟨.acMem, .add, .ac, .open⟩
  | 0o271 => some ⟨.acImm, .add, .ac, .open⟩
  | 0o272 => some ⟨.acMem, .add, .mem, .modeVariants⟩
  | 0o273 => some ⟨.acMem, .add, .both, .modeVariants⟩
  | 0o274 => some ⟨.acMem, .sub, .ac, .open⟩
  | 0o275 => some ⟨.acImm, .sub, .ac, .modeVariants⟩
  | 0o276 => some ⟨.acMem, .sub, .mem, .modeVariants⟩
  | 0o277 => some ⟨.acMem, .sub, .both, .modeVariants⟩
  | 0o320 => some ⟨.ac, .jump, .none, .cmpClass⟩
  | 0o321 => some ⟨.ac, .jump, .none, .open⟩
  | 0o322 => some ⟨.ac, .jump, .none, .cmpClass⟩
  | 0o323 => some ⟨.ac, .jump, .none, .cmpClass⟩
  | 0o324 => some ⟨.ac, .jump, .none, .cmpClass⟩
  | 0o325 => some ⟨.ac, .jump, .none, .cmpClass⟩
  | 0o326 => some ⟨.ac, .jump, .none, .cmpClass⟩
  | 0o327 => some ⟨.ac, .jump, .none, .cmpClass⟩
  | 0o330 => some ⟨.mem, .skip, .acNz, .cmpClass⟩
  | 0o331 => some ⟨.mem, .skip, .acNz, .open⟩
  | 0o332 => some ⟨.mem, .skip, .acNz, .cmpClass⟩
  | 0o333 => some ⟨.mem, .skip, .acNz, .cmpClass⟩
  | 0o334 => some ⟨.mem, .skip, .acNz, .cmpClass⟩
  | 0o335 => some ⟨.mem, .skip, .acNz, .cmpClass⟩
  | 0o336 => some ⟨.mem, .skip, .acNz, .cmpClass⟩
  | 0o337 => some ⟨.mem, .skip, .acNz, .cmpClass⟩
  | _ => none

/-- The condition field of a word, `OP[2:0]` (R111, 43_jump_skip.md R200). -/
def condOf (w : Word) : BitVec 3 := w.extractLsb' 27 3

/-- `DEC(w)`, test by test in the order of R111. -/
def dec (c : Config) (w : Word) : Sel :=
  if classOf w = 7 then
    if [1, 3, 4, 5].contains (fnOf w).toNat then .refuse w .ioUnspecified else .refuse w .unlisted
  else if muuoOpcodes.contains (opOf w).toNat then .generic w .none .muuo 0 .none
  else if xctrOpcodes.contains (opOf w).toNat then .refuse w .xctrUnspecified
  else if (opOf w).toNat = 0o250 then .refuse w .exchUnspecified
  else if (opOf w).toNat = 0o254 then
    if acOf w ≠ 0 then .refuse w .jrstAcNonzero
    else if indOf w = false ∧ xOf w = 0 then .fastJump w (yOf w)
    else .generic w .none .jrst 0 .none
  else
    match rom (opOf w).toNat with
    | some r => if r.gate.admits c then .generic w r.rd r.op (condOf w) r.wb else .refuse w .notAdmitted
    | none => .refuse w .unlisted

/-! ## Codes -/

/-- The codes of R116 for `rd`. -/
def Rd.code : Rd → BitVec 3
  | .none => 0 | .mem => 1 | .imm => 2 | .ac => 3 | .acMem => 4 | .acImm => 5

/-- The codes of R116 for `op`. -/
def Op.code : Op → BitVec 3
  | .pass => 0 | .neg => 1 | .add => 2 | .sub => 3 | .jump => 4 | .skip => 5 | .jrst => 6 | .muuo => 7

/-- The codes of R116 for `wb`. -/
def Wb.code : Wb → BitVec 3
  | .none => 0 | .ac => 1 | .mem => 2 | .both => 3 | .self => 4 | .acNz => 5

/-- The codes of R116 for `reason`. -/
def Reason.code : Reason → BitVec 3
  | .unlisted => 0 | .notAdmitted => 1 | .exchUnspecified => 2 | .ioUnspecified => 3 | .xctrUnspecified => 4
  | .jrstAcNonzero => 5

/-- The `rd` of a code; 6 and 7 are never produced (R116). -/
def Rd.ofCode (c : BitVec 3) : Option Rd :=
  match c.toNat with
  | 0 => some .none | 1 => some .mem | 2 => some .imm | 3 => some .ac | 4 => some .acMem | 5 => some .acImm | _ => Option.none

/-- The `op` of a code; all eight are used (R116). -/
def Op.ofCode (c : BitVec 3) : Op :=
  match c.toNat with
  | 0 => .pass | 1 => .neg | 2 => .add | 3 => .sub | 4 => .jump | 5 => .skip | 6 => .jrst | _ => .muuo

/-- The `wb` of a code; 6 and 7 are never produced (R116). -/
def Wb.ofCode (c : BitVec 3) : Option Wb :=
  match c.toNat with
  | 0 => some .none | 1 => some .ac | 2 => some .mem | 3 => some .both | 4 => some .self | 5 => some .acNz | _ => Option.none

/-- The `reason` of a code; 6 and 7 are never produced (R116). -/
def Reason.ofCode (c : BitVec 3) : Option Reason :=
  match c.toNat with
  | 0 => some .unlisted | 1 => some .notAdmitted | 2 => some .exchUnspecified | 3 => some .ioUnspecified
  | 4 => some .xctrUnspecified | 5 => some .jrstAcNonzero | _ => none

/-- The selection vector (R116), field by field. -/
structure SelCodes where
  kind : BitVec 2
  rd : BitVec 3
  op : BitVec 3
  cond : BitVec 3
  wb : BitVec 3
  reason : BitVec 3
  target : BitVec 18
  word : BitVec 36
  deriving DecidableEq, Repr

/-- The vector of a selection; the fields that its kind does not use are 0 (log 24). -/
def Sel.codes : Sel → SelCodes
  | .generic w rd op cond wb => ⟨0, rd.code, op.code, cond, wb.code, 0, 0, w⟩
  | .fastJump w t => ⟨1, 0, 0, 0, 0, 0, t, w⟩
  | .refuse w r => ⟨2, 0, 0, 0, 0, r.code, 0, w⟩

/-- The selection of a vector, or none where a field holds a code that is never produced (R116). -/
def Sel.ofCodes (v : SelCodes) : Option Sel :=
  match Rd.ofCode v.rd, Wb.ofCode v.wb, Reason.ofCode v.reason with
  | some rd, some wb, some r =>
    match v.kind.toNat with
    | 0 => some (.generic v.word rd (Op.ofCode v.op) v.cond wb)
    | 1 => some (.fastJump v.word v.target)
    | 2 => some (.refuse v.word r)
    | _ => none
  | _, _, _ => none

/-- The slot tags (R117). -/
def Slot.tag : Slot → BitVec 2
  | .stub => 0 | .decoded _ => 1 | .unmapped => 2

/-- The vector beside a slot's tag: that of its selection, 0 where it has none. -/
def Slot.codes : Slot → SelCodes
  | .decoded sel => sel.codes
  | _ => ⟨0, 0, 0, 0, 0, 0, 0, 0⟩

/-- The slot of a tag and a vector, or none on a code that is never produced (R116, R117). -/
def Slot.ofCodes (tag : BitVec 2) (v : SelCodes) : Option Slot :=
  match tag.toNat with
  | 0 => some .stub
  | 1 => (Sel.ofCodes v).map .decoded
  | 2 => some .unmapped
  | _ => none

end Sys2Proof.Machine
end

