-- ==== Sys2Proof/Machine/State.lean ====
section
/-! DEFINITION. The state of the block (10_state.md R20, R40), its reset (70_reset_and_hazards.md R300), and the reasons a
step can stop. -/

namespace Sys2Proof.Machine

/-- The state. `started`, `config`, `draws`, `allocScript` and `serviceScript` are the model's own; the rest is R20's tuple
and the iteration cursor of R40. -/
structure State where
  /-- PC, 18 bits (R24). It holds a value of the spec only while `started` is true (R32, log 4). -/
  pc : Addr
  /-- AC, the selected accumulator (R25). -/
  ac : AcNum
  /-- The condition and trap flags (R28). -/
  flags : BitVec 18
  /-- The instruction word of the executing slot (R29). -/
  ir : Word
  /-- Operand and result (R29). -/
  ar : Word
  /-- Second operand (R29). -/
  br : Word
  /-- Named by the source, used by no admitted instruction (R29). -/
  mq : Word
  /-- The effective address (R29). -/
  ma : Word
  /-- The last word read by an indirect fetch (R29). -/
  mb : Word
  /-- FM[0..15]: each "a `Word36` or `⊥`" (R26), ⊥ being `none`. `State.reset` gives each a word (log 3); `State.resetUnwritten`
  has the ⊥ of R32. -/
  fm : Vector (Option Word) 16
  /-- The memory model (R31). -/
  mem : Memory
  /-- The dispatch table (R21). -/
  slots : SlotTable
  /-- The run status (R34). -/
  status : Status
  /-- The iteration cursor (R40, R59): the address of the last word returned, `none` before the first (log 15). -/
  cursor : Option Nat
  /-- Whether `run` has given PC a value (R32, R135; log 4). -/
  started : Bool
  /-- The parameters of R8 (log 1). -/
  config : Config
  /-- How many free values have been drawn (log 6). -/
  draws : Nat
  /-- The draws `oom` of the next allocations, as far as they are laid down (log 7). -/
  allocScript : List Bool
  /-- The replies of `its_service` to the next monitor calls, as far as they are laid down (log 8). -/
  serviceScript : List ServiceReply
  deriving DecidableEq, Repr

/-- Why the machine stops with a fault. -/
inductive Fault where
  /-- `raise` (R270): the run ends in `Fault(kind, info)`. `final` is the state kept, with its terminal status. Raised by the
  decode step, by entering an UNMAPPED slot, by EA calculation, by the read-operands and write-back uops, by the monitor
  service and by host operations that allocate. The spec's own faults, modelled as it gives them (log 9). -/
  | raised (k : FaultKind) (final : State)
  /-- A monitor service that never returns (R286): "the model has no step, and is stuck with status = Running". `final` is
  the state in which it is stuck. Raised by the monitor calls. Safe: the machine does not go on (log 12). -/
  | stuck (final : State)
  deriving DecidableEq, Repr

/-- Why the machine gives no meaning. -/
inductive Refusal where
  /-- An instruction that has no meaning yet. Raised by `exec` alone. Safe. -/
  | notModelled (mnemonic : String)
  /-- `refuse` (R271): the run ends in `Refused(reason)`. `final` is the state kept, with its terminal status. Raised by the
  refused instructions and by host operations. Safe: "no claim that a run succeeds can be proved of a run that is
  refused". -/
  | declined (r : RefuseReason) (final : State)
  /-- A step before `run`: PC holds ⊥ (R32). Raised by `step`. Safe (log 4). -/
  | notStarted
  /-- A step or a host operation in a terminal state, where "no step is enabled" (R34). Raised by `step` and `hostStep`.
  Safe (log 10). -/
  | ended
  deriving DecidableEq, Repr

/-- The parameters at the values of R8: both gates off. `ac_alias` is OPEN; `separate` is the model's choice (log 2), and
no statement rests on it. No call number is laid down (log 26). -/
def defaultConfig : Config := { acAlias := .separate, admitModeVariants := false, admitCmpClass := false, calls := [], services := [] }

/-- The state at the start of the process (R300): no area, every slot STUB, status Running, the cursor reset. The spec gives no
register a value there (R32: it "gives no initial value for any register"); the model gives each 0, the accumulators among
them (log 3, log 4, log 5), so that a program runs from reset. The accumulators' ⊥ of R32 is `State.resetUnwritten`. -/
def State.reset : State where
  pc := 0
  ac := 0
  flags := 0
  ir := 0
  ar := 0
  br := 0
  mq := 0
  ma := 0
  mb := 0
  fm := Vector.replicate 16 (some 0)
  mem := Memory.init
  slots := []
  status := .running
  cursor := none
  started := false
  config := defaultConfig
  draws := 0
  allocScript := []
  serviceScript := []

/-- The start of the process with the accumulators as R32 and R300 have them: every `FM[i]` is ⊥, "and reading it raises
`UndefinedRegister(i)` until an instruction writes it" (log 3). -/
def State.resetUnwritten : State := { State.reset with fm := Vector.replicate 16 none }

end Sys2Proof.Machine

namespace Sys2Proof

/-- The call number of a monitor call, which the source gives no way to compute (44_monitor_unspecified.md R240, R246): a free
value of the state at the point of the call, the instruction word and the effective address (log 26). -/
opaque Config.callNumber : Machine.State → Word → Addr → Nat

/-- The OPEN relation `its_service` (44_monitor_unspecified.md R240): what it answers to "the state `S` at the point of the
call, the instruction word `w` and the effective address `E`", a free value (log 8). Two calls of one run are never made in
one state, since `draws` moves on. -/
opaque Config.itsService : Machine.State → Word → Addr → Machine.ServiceReply

end Sys2Proof
end

