-- ==== Sys2Proof/Machine/Ops.lean ====
section
/-! DEFINITION. The named operations on the state: the register updates, the ends of a run (60_exceptions.md R270, R271), the
reads and writes of accumulators and memory (20_memory.md R55 to R62), and the slot table's maintenance
(40_decode_dispatch.md R130 to R133). There is no trap entry and no return from one (R277, R278): `raise` is the one way a
fault is taken. -/

namespace Sys2Proof.Machine

/-- What a step, a uop or an operation answers. -/
abbrev Result := Host.Outcome State Fault Refusal

/-- Goes on with the next state, if there is one: a uop that raises ends the step (R125). -/
def andThen {α : Type} (r : Result) (k : State → Host.Outcome α Fault Refusal) : Host.Outcome α Fault Refusal :=
  match r with
  | .next s => k s
  | .fault f => .fault f
  | .refused f => .refused f

/-! ## Register updates -/

/-- `pc <- p` (00_scope.md R13). -/
def State.setPc (s : State) (p : Addr) : State := { s with pc := p }

/-- `IR <- w`. -/
def State.setIr (s : State) (w : Word) : State := { s with ir := w }

/-- The start of a generic step: `IR <- w; AC <- w[26:23]` (R126). -/
def State.latch (s : State) (w : Word) : State := { s with ir := w, ac := acOf w }

/-- `MB <- w` (R127). -/
def State.setMb (s : State) (w : Word) : State := { s with mb := w }

/-- The end of EA calculation: `MA <- zext36(E)` (R127, 10_state.md R29), with the last indirect word in MB. -/
def State.setEa (s : State) (e : Addr) (mb : Word) : State := { s with ma := e.setWidth 36, mb := mb }

/-- `AR <- v`. -/
def State.setAr (s : State) (v : Word) : State := { s with ar := v }

/-- `BR <- v`. -/
def State.setBr (s : State) (v : Word) : State := { s with br := v }

/-- `flags <- draw` (10_state.md R28): a free value (log 6). -/
def State.drawFlags (s : State) : State := { s with flags := Config.flagsDraw s.draws, draws := s.draws + 1 }

/-- `FM[i] <- v` (R26). -/
def State.setFm (s : State) (i : AcNum) (v : Word) : State := { s with fm := s.fm.set i.toNat (some v) i.isLt }

/-- `Mem <- m`. -/
def State.setMem (s : State) (m : Memory) : State := { s with mem := m }

/-- The slot table as a whole. -/
def State.setSlots (s : State) (t : SlotTable) : State := { s with slots := t }

/-- `status <- st`. -/
def State.setStatus (s : State) (st : Status) : State := { s with status := st }

/-- The iteration cursor. -/
def State.setCursor (s : State) (c : Option Nat) : State := { s with cursor := c }

/-! ## The ends of a run -/

/-- The fault codes of R273. -/
def FaultKind.code : FaultKind → Nat
  | .unmapped _ _ => 1
  | .undefinedRegister _ => 2
  | .outOfMemory => 3
  | .muuoUnimplemented _ => 4

/-- `raise k` (R270): the run ends in `Fault(k)`. The state is kept as it was when the fault was raised, the writes of
earlier uops among it, and its status becomes terminal. -/
def raise {α : Type} (k : FaultKind) (s : State) : Host.Outcome α Fault Refusal :=
  .fault (.raised k (s.setStatus (.fault k)))

/-- `refuse r` (R271): the run ends in `Refused(r)`. -/
def refuse {α : Type} (r : RefuseReason) (s : State) : Host.Outcome α Fault Refusal :=
  .refused (.declined r (s.setStatus (.refused r)))

/-- Goes on with the value read, or raises the fault of the read. -/
def withRead (r : Except FaultKind Word) (s : State) (k : Word → Result) : Result :=
  match r with
  | .ok v => k v
  | .error f => raise f s

/-! ## Accumulators -/

/-- `FM[i]` as it stands: a word, or ⊥ (R26). -/
def State.fmAt (s : State) (i : AcNum) : Option Word := s.fm[i.toNat]'i.isLt

/-- The read of accumulator `i`: it raises `UndefinedRegister(i)` on ⊥ (R13, R32). -/
def readFm (s : State) (i : AcNum) : Except FaultKind Word :=
  match s.fmAt i with
  | some v => .ok v
  | none => .error (.undefinedRegister i)

/-- Under `ac_alias = aliased` the operand address reaches FM (10_state.md R27). -/
def aliasesFm (s : State) (a : Addr) : Bool := s.config.acAlias = .aliased && a.toNat < 16

/-- The accumulator that an operand address below 16 names. -/
def aliasedAc (a : Addr) : AcNum := a.setWidth 4

/-! ## Memory -/

/-- `MemGet(a)` of the state (R13, R55). -/
def State.memGet (s : State) (a : Addr) : Option Word := getWord s.mem a.toNat

/-- `Slot[a]` of the state (R21). -/
def State.slotAt (s : State) (a : Addr) : Slot := slotGet s.slots a.toNat

/-- `MemRead(a, 1)` (R60): an operand or indirect read. -/
def memRead (s : State) (a : Addr) : Except FaultKind Word :=
  if aliasesFm s a then readFm s (aliasedAc a)
  else
    match s.memGet a with
    | some w => .ok w
    | none => .error (.unmapped a .read)

/-- The draw `oom` at an allocation (R73): what the script lays down next, or a free value beyond its end (log 7). -/
def drawAlloc (s : State) : Bool × State :=
  match s.allocScript with
  | b :: rest => (b, { s with allocScript := rest, draws := s.draws + 1 })
  | [] => (Config.allocFails s.draws, { s with draws := s.draws + 1 })

/-- An area made by the state `s`; its flags are a free value (log 14). -/
def newArea (s : State) (a : Nat) (data : List Word) : Area := ⟨a, Config.areaFlags s.draws, data⟩

/-- `set_word_at(a, w)` (R56): a store into the covering area, or a new one-word area, whose allocation can fail (R73). It
does not touch the slot table (R62). -/
def setWordAt (a : Addr) (w : Word) (s : State) : Result :=
  match s.memGet a with
  | some _ => .next (s.setMem (putWord s.mem a.toNat w))
  | none =>
    if (drawAlloc s).1 then raise .outOfMemory (drawAlloc s).2
    else .next ((drawAlloc s).2.setMem (insertArea (newArea s a.toNat [w]) s.mem))

/-- The single-entry write port of the slot table (R118). -/
def State.setSlot (s : State) (a : Addr) (v : Slot) : State := s.setSlots (slotSet s.slots a.toNat v)

/-- `invalidate_word(a)` (R130): `Slot[a] <- STUB`, whatever it held. -/
def invalidateWord (a : Addr) (s : State) : State := s.setSlot a .stub

/-- `MemWrite(a, 1, v)`, the emulator's `write_memory` (R61): the store, then the invalidation; under the alias, the
accumulator and nothing else. -/
def memWrite (a : Addr) (v : Word) (s : State) : Result :=
  if aliasesFm s a then .next (s.setFm (aliasedAc a) v)
  else andThen (setWordAt a v s) fun t => .next (invalidateWord a t)

/-! ## Page fills and the coded port -/

/-- The slot that `pure_page` gives an address (R131): its decoded word, or STUB where it is unmapped. -/
def pureSlot (s : State) (a : Nat) : Slot :=
  match getWord s.mem a with
  | some w => .decoded (dec s.config w)
  | none => .stub

/-- `pure_page(a)` (R131): every slot of the page takes its decoded form, at the time of the call. -/
def purePage (a : Nat) (s : State) : State := s.setSlots (slotFill s.slots a (pureSlot s))

/-- `unpure_page(a)` (R132): every slot of the page becomes STUB. -/
def unpurePage (a : Nat) (s : State) : State := s.setSlots (slotFill s.slots a fun _ => .stub)

/-- `unmapped_page(a)` (R133): every slot of the page becomes UNMAPPED; memory is unchanged. -/
def unmappedPage (a : Nat) (s : State) : State := s.setSlots (slotFill s.slots a fun _ => .unmapped)

/-- A slot written by its codes (R116, R117): a code that is never produced is refused BadCode (log 24). -/
def writeSlotCodes (a : Addr) (tag : BitVec 2) (v : SelCodes) (s : State) : Result :=
  match Slot.ofCodes tag v with
  | some slot => .next (s.setSlot a slot)
  | none => refuse .badCode s

end Sys2Proof.Machine
end

