-- ==== Sys2Proof/Machine/Operands.lean ====
section
/-! DEFINITION. Effective-address calculation (40_decode_dispatch.md R127 to R129) and the read-operands uops (R136). -/

namespace Sys2Proof.Machine

/-- `zext36(e)` (00_scope.md R11): the word `0,,e`. -/
def zext36 (e : Addr) : Word := e.setWidth 36

/-- What EA calculation comes to. `mb` is what MB holds then: the last indirect word read, or what it held before. -/
inductive EaResult where
  | done (e : Addr) (mb : Word)
  | fault (k : FaultKind) (mb : Word)
  | hang
  deriving DecidableEq, Repr

/-- One level's address, before the indirect bit is tested (R127): Y, plus `FM[X]` modulo 2^18 where X is not 0. -/
def indexed (s : State) (w : Word) : Except FaultKind Addr :=
  if xOf w = 0 then .ok (yOf w)
  else
    match readFm s (xOf w) with
    | .ok v => .ok (yOf w + v.setWidth 18)
    | .error k => .error k

/-- `CalcEA(w)` (R127) for at most `n` levels; `hang` where it has not ended by then. -/
def calcEA : Nat → State → Word → Word → EaResult
  | 0, _, _, _ => .hang
  | n + 1, s, w, mb =>
    match indexed s w with
    | .error k => .fault k mb
    | .ok e =>
      if indOf w then
        match memRead s e with
        | .error k => .fault k mb
        | .ok w' => calcEA n s w' w'
      else .done e mb

/-- The levels after which a chain that has not ended never ends: it "either ends within 2^18 + 1 fetches, or it revisits an
address and repeats forever" (R128). So many levels make 2^18 + 1 fetches where every one is indirect, and two of them are
from one address. -/
def eaLevels : Nat := 2 ^ 18 + 1

/-- The effective address of an instruction word in a state (R127). -/
def eaOf (s : State) (w : Word) : EaResult := calcEA eaLevels s w s.mb

/-- The read-operands uops (R136). In RD_AC_MEM the accumulator is read first. `AC` is the register, so R126 has run. -/
def readOperands (rd : Rd) (e : Addr) (s : State) : Result :=
  match rd with
  | .none => .next s
  | .mem => withRead (memRead s e) s fun v => .next (s.setAr v)
  | .imm => .next (s.setAr (zext36 e))
  | .ac => withRead (readFm s s.ac) s fun v => .next (s.setAr v)
  | .acMem =>
    withRead (readFm s s.ac) s fun u =>
      withRead (memRead (s.setAr u) e) (s.setAr u) fun v => .next ((s.setAr u).setBr v)
  | .acImm => withRead (readFm s s.ac) s fun u => .next ((s.setAr u).setBr (zext36 e))

end Sys2Proof.Machine
end

