-- ==== Sys2Proof/Machine/Flags.lean ====
section
/-! DEFINITION. The operate uops (40_decode_dispatch.md R137): arithmetic with its flag update, the condition function
(43_jump_skip.md R200) and the program counter that a step ends with (R150). -/

namespace Sys2Proof.Machine

/-- `Cond(c, v)` (R200): the test of `signed36(v)` against 0. -/
def condHolds (c : BitVec 3) (v : Word) : Bool :=
  match c.toNat with
  | 0 => false
  | 1 => v.toInt < 0
  | 2 => v.toInt = 0
  | 3 => v.toInt ≤ 0
  | 4 => true
  | 5 => v.toInt ≥ 0
  | 6 => v.toInt ≠ 0
  | _ => v.toInt > 0

/-- The register effect of the operate uops (R137): OP_NEG, OP_ADD and OP_SUB compute modulo 2^36 into AR and draw `flags`
(10_state.md R28); the others change no register here. -/
def operate (op : Op) (s : State) : State :=
  match op with
  | .neg => (s.setAr (-s.ar)).drawFlags
  | .add => (s.setAr (s.ar + s.br)).drawFlags
  | .sub => (s.setAr (s.ar - s.br)).drawFlags
  | .pass | .jump | .skip | .jrst | .muuo => s

/-- The PC that a generic step other than OP_MUUO ends with (R137, R150): the jump target, `PC + 2` on a skip, else
`PC + 1`, modulo 2^18. `s` is the state after read-operands. -/
def nextPc (op : Op) (cond : BitVec 3) (e : Addr) (s : State) : Addr :=
  match op with
  | .jrst => e
  | .jump => if condHolds cond s.ar then e else s.pc + 1
  | .skip => if condHolds cond s.ar then s.pc + 2 else s.pc + 1
  | .pass | .neg | .add | .sub | .muuo => s.pc + 1

end Sys2Proof.Machine
end

