-- ==== Sys2Proof/Machine/HostOps.lean ====
section
/-! DEFINITION. The host operations (10_state.md R35): the only ways the world outside the block changes its state. Each is
one host step (00_scope.md R14). -/

namespace Sys2Proof.Machine

/-- What a host operation answers: the state after it and what the host is given back. -/
abbrev HostResult := Host.Outcome (State × HostReply) Fault Refusal

/-- Goes on where the address has 18 bits; else `Refused(BadAddress)` (40_decode_dispatch.md R134). -/
def withAddr (a : Nat) (s : State) (k : Addr → HostResult) : HostResult :=
  if a < addressCount then k (BitVec.ofNat 18 a) else refuse .badAddress s

/-- Goes on where the word has 36 bits; else `Refused(BadWord)` (20_memory.md R74). -/
def withWord (w : Nat) (s : State) (k : Word → HostResult) : HostResult :=
  if w < 2 ^ 36 then k (BitVec.ofNat 36 w) else refuse .badWord s

/-- An operation that gives nothing back. -/
def doneWith (r : Result) : HostResult := andThen r fun s => .next (s, .done)

/-- `add_memory(a, n, data)` (R57, R58, R73): the error where `a` falls in an area, the refusal of every other insertion that
would break the invariant, then the allocation, which can fail. -/
def addMemory (a : Nat) (data : List Nat) (s : State) : HostResult :=
  if addressCount ≤ a then refuse .badAddress s
  else if data.any (2 ^ 36 ≤ ·) then refuse .badWord s
  else if (getWord s.mem a).isSome then .next (s, .duplicate)
  else if data.isEmpty || addressCount < a + data.length || overlapsArea s.mem a (a + data.length) then
    refuse .areaOverlap s
  else if (drawAlloc s).1 then .next ((drawAlloc s).2, .outOfMemory)
  else .next ((drawAlloc s).2.setMem (insertArea (newArea s a (data.map (BitVec.ofNat 36))) s.mem), .done)

/-- `run(start, memory)` (40_decode_dispatch.md R135): it sets `Mem`, `PC` and `status`, and no other register. A second one
is refused RunTwice. A memory that breaks the area invariant is refused as R58 refuses every way to break it (log 20). -/
def hostRun (start : Nat) (memory : Memory) (s : State) : HostResult :=
  if s.started then refuse .runTwice s
  else if ¬ memory.wf then refuse .areaOverlap s
  else
    .next ({ s with mem := memory, pc := BitVec.ofNat 18 start, status := .running, started := true }, .done)

/-- `get_next()` (R59): the next word in address order, or -1 past the last area. -/
def getNext (s : State) : HostResult :=
  match nextCell s.mem s.cursor with
  | some (a, w) => .next (s.setCursor (some a), .word (some w))
  | none => .next (s, .word none)

/-- The host's `write_memory(a, w)` (R35, 20_memory.md R61): the store, then the invalidation. It is no operand access, so it
reaches `Mem` under either value of `ac_alias` (10_state.md R27), and like every host operation it writes no accumulator
(70_reset_and_hazards.md R300; log 17). -/
def writeMemory (a : Addr) (w : Word) (s : State) : Result :=
  andThen (setWordAt a w s) fun t => .next (invalidateWord a t)

/-- One host operation in a running state (R35). -/
def hostOp (op : HostOp) (s : State) : HostResult :=
  match op with
  | .addMemory a data => addMemory a data s
  | .setWordAt a w => withAddr a s fun a' => withWord w s fun w' => doneWith (setWordAt a' w' s)
  | .writeMemory a w => withAddr a s fun a' => withWord w s fun w' => doneWith (writeMemory a' w' s)
  | .invalidateWord a => withAddr a s fun a' => .next (invalidateWord a' s, .done)
  | .purePage a => withAddr a s fun _ => .next (purePage a s, .done)
  | .unpurePage a => withAddr a s fun _ => .next (unpurePage a s, .done)
  | .unmappedPage a => withAddr a s fun _ => .next (unmappedPage a s, .done)
  | .run start memory => hostRun start memory s
  | .getWordAt a => withAddr a s fun a' => .next (s, .word (s.memGet a'))
  | .setAddress a => if a = -1 then .next (s.setCursor none, .done) else refuse .badAddress s
  | .getNext => getNext s

/-- A host step (R14, R35). In a terminal state none is enabled (R34). After `run` a host step happens only inside a monitor
service; there it is part of the service's reply (Machine/Service.lean). -/
def hostStep (op : HostOp) (s : State) : HostResult :=
  if s.status = .running then hostOp op s else .refused .ended

/-- Host steps in order, their replies dropped. -/
def hostSteps : List HostOp → State → Result
  | [], s => .next s
  | op :: ops, s =>
    match hostStep op s with
    | .next (t, _) => hostSteps ops t
    | .fault f => .fault f
    | .refused r => .refused r

end Sys2Proof.Machine
end

