-- ==== Sys2Proof/Machine/Service.lean ====
section
/-! DEFINITION. The monitor-call hand-off to the ITS service layer (44_monitor_unspecified.md R240, R241). What the service
does is OPEN: its reply is an input, laid down in the state's script or free (log 8). -/

namespace Sys2Proof.Machine

/-- The call number `n` of a monitor call (R240, R246): what the parameters lay down, or a free value (log 26). -/
def callNumber (s : State) (w : Word) (e : Addr) : Nat := (s.config.calls.lookup (w, e)).getD (Config.callNumber s w e)

/-- Which of the four services a call number is; `none` is "any call number other than those" (R246, log 26). -/
def namedService (c : Config) (n : Nat) : Option ItsService := (c.services.lookup n).getD (Config.serviceAt n)

/-- The reply of `its_service` to the call with word `w` and effective address `e` in the state `s`, and the state that has
used it up. -/
def drawReply (w : Word) (e : Addr) (s : State) : ServiceReply × State :=
  match s.serviceScript with
  | r :: rest => (r, { s with serviceScript := rest, draws := s.draws + 1 })
  | [] => (Config.itsService s w e, { s with draws := s.draws + 1 })

/-- The fault of a service, `n` being the number of the call (R240). -/
def ServiceFault.kind (n : Nat) : ServiceFault → FaultKind
  | .outOfMemory => .outOfMemory
  | .unmapped a acc => .unmapped a acc
  | .unimplemented => .muuoUnimplemented n

/-- The memory writes of a service, each through `write_memory` (R240, 20_memory.md R61). -/
def serviceWrites : List (Addr × Word) → State → Result
  | [], s => .next s
  | (a, v) :: ws, s => andThen (memWrite a v s) (serviceWrites ws)

/-- The accumulators that a service writes. -/
def serviceFm : List (AcNum × Word) → State → State
  | [], s => s
  | (i, v) :: ws, s => serviceFm ws (s.setFm i v)

/-- The registers that a service leaves behind: accumulators, `flags` if it writes them, and the PC at which execution
resumes; "no PC+1 is added" (R241). -/
def serviceRegs (eff : ServiceEffect) (s : State) : State :=
  { serviceFm eff.fm s with flags := eff.flags.getD s.flags, pc := eff.pc }

/-- `Continue(S')` (R240). DESIGN CHOICE (log 27): the spec does not say what a service has already done when it ends in a
fault. Where a write of the reply cannot allocate, the state kept has the reply's host steps and its earlier writes, but none of
its registers; where a host step of the reply stops the run, it has the host steps before that one. -/
def serviceContinue (eff : ServiceEffect) (s : State) : Result :=
  andThen (hostSteps eff.host s) fun t =>
    andThen (serviceWrites eff.mem t) fun u => .next (serviceRegs eff u)

/-- A call of `.OPEN`, `.SUSET` or `.EVAL`: "whatever `its_service` relates" (R242 to R244), by its reply. DESIGN CHOICE (log
27): a fault reply holds no write, so the state kept is that of the call. A service that never returns leaves the machine
stuck at the call (R286). -/
def servedCall (w : Word) (e : Addr) (s : State) : Result :=
  match (drawReply w e s).1 with
  | .cont eff => serviceContinue eff (drawReply w e s).2
  | .fault k => raise (k.kind (callNumber s w e)) (drawReply w e s).2
  | .noReturn => .fault (.stuck s)

/-- OP_MUUO (R137, R241): `its_muuo` "switches on the call number" (R240). `.LOGOUT` ends the run with Exit (R245), and a number
that is none of the four ends it with MuuoUnimplemented (R246). -/
def muuoCall (w : Word) (e : Addr) (s : State) : Result :=
  match namedService s.config (callNumber s w e) with
  | none => raise (.muuoUnimplemented (callNumber s w e)) s
  | some .dotLogout => .next (s.setStatus .exit)
  | some .dotOpen => servedCall w e s
  | some .dotSuset => servedCall w e s
  | some .dotEval => servedCall w e s

end Sys2Proof.Machine
end

