-- ==== Sys2Proof/Machine/Uops.lean ====
section
/-! DEFINITION. The write-back uops (40_decode_dispatch.md R138) and the execute step of a selection: generic (R125), fast
path (R123) and refused (R124). -/

namespace Sys2Proof.Machine

/-- The write-back uops (R138). A write to memory goes through `write_memory`; memory comes before the accumulator. -/
def writeBack (wb : Wb) (e : Addr) (s : State) : Result :=
  match wb with
  | .none => .next s
  | .ac => .next (s.setFm s.ac s.ar)
  | .mem => memWrite e s.ar s
  | .both => andThen (memWrite e s.ar s) fun t => .next (t.setFm t.ac t.ar)
  | .self => andThen (memWrite e s.ar s) fun t => .next (if t.ac = 0 then t else t.setFm t.ac t.ar)
  | .acNz => .next (if s.ac = 0 then s else s.setFm s.ac s.ar)

/-- Operate, write back and set PC, from the state after read-operands (R125, R150). OP_MUUO leaves the PC to the service,
and nothing follows a call that ends the run (R34). -/
def operateAndWriteBack (w : Word) (op : Op) (cond : BitVec 3) (wb : Wb) (e : Addr) (s : State) : Result :=
  if op = .muuo then
    andThen (muuoCall w e s) fun t => if t.status = .running then writeBack wb e t else .next t
  else andThen (writeBack wb e (operate op s)) fun t => .next (t.setPc (nextPc op cond e s))

/-- `ExecGeneric` (R125): latch IR and AC (R126), compute E (R127), read operands, operate, write back, set PC. An indirect
cycle is "a step `S -> S` that changes nothing" (R128). -/
def execGeneric (w : Word) (rd : Rd) (op : Op) (cond : BitVec 3) (wb : Wb) (s : State) : Result :=
  match eaOf s w with
  | .hang => .next s
  | .fault k mb => raise k ((s.latch w).setMb mb)
  | .done e mb => andThen (readOperands rd e ((s.latch w).setEa e mb)) (operateAndWriteBack w op cond wb e)

/-- `ExecFast` (R123): `IR <- w; pc <- t`, and nothing else. -/
def execFast (w : Word) (t : Addr) (s : State) : Result := .next ((s.setIr w).setPc t)

/-- `ExecRefuse` (R124): `IR <- w; refuse r`, before any effective address. -/
def execRefuse (w : Word) (r : Reason) (s : State) : Result := refuse (.instr r) (s.setIr w)

/-- A row with a gate (R86, R111): its meaning where the gate is on, else `Refused(NotAdmitted)`. -/
def gated (g : Gate) (w : Word) (meaning : State → Result) (s : State) : Result :=
  if g.admits s.config then meaning s else execRefuse w .notAdmitted s

/-- The execute step of a selection, whatever it holds (R120). -/
def execSel (sel : Sel) (s : State) : Result :=
  match sel with
  | .generic w rd op cond wb => execGeneric w rd op cond wb s
  | .fastJump w t => execFast w t s
  | .refuse w r => execRefuse w r s

/-- The instruction whose word a selection holds, where the selection is the one that `DEC` gives that word. -/
def Sel.instr? (c : Config) (sel : Sel) : Option Instr :=
  if dec c sel.word = sel then some (decode sel.word) else none

/-- `DecodeStep(a)` (R121): the word of `a` in memory, never of FM, is decoded into the slot; nothing else changes. -/
def decodeStep (s : State) : Result :=
  match s.memGet s.pc with
  | some w => .next (s.setSlot s.pc (.decoded (dec s.config w)))
  | none => raise (.unmapped s.pc .fetch) s

/-- Entering an UNMAPPED slot (R122), whatever memory holds. -/
def enterUnmapped (s : State) : Result := raise (.unmapped s.pc .fetch) s

/-- What the load of one word and `run` leave behind (70_reset_and_hazards.md R302): the word in memory and, decoded, in
the slot at PC, and a running machine. It stands for the host, so no draw is taken (log 22). -/
def placeWord (w : Word) (s : State) : State :=
  let m := if (s.memGet s.pc).isSome then putWord s.mem s.pc.toNat w else insertArea ⟨s.pc.toNat, 0, [w]⟩ s.mem
  { (s.setMem m).setSlot s.pc (.decoded (dec s.config w)) with started := true, status := .running }

end Sys2Proof.Machine
end

