-- ==== Sys2Proof/Machine/AddSub.lean ====
section
/-! DEFINITION. The ADD and SUB families (42_add_sub.md R180 to R188). Results are reduced modulo 2^36 and no trap is taken
(R180). -/

namespace Sys2Proof.Machine

/-- ADD (R181): `FM[AC] <- FM[AC] + MemRead(E, 1)`; flags drawn. -/
def execAdd (f : Basic) (s : State) : Result :=
  execGeneric (encode (.add f)) .acMem .add 0 .ac s

/-- ADDI (R182): `FM[AC] <- FM[AC] + zext36(E)`; flags drawn. -/
def execAddi (f : Basic) (s : State) : Result :=
  execGeneric (encode (.addi f)) .acImm .add 1 .ac s

/-- ADDM (R183): `MemWrite(E, 1, FM[AC] + MemRead(E, 1))`; flags drawn. Gated by `admit_mode_variants`. -/
def execAddm (f : Basic) (s : State) : Result :=
  gated .modeVariants (encode (.addm f)) (execGeneric (encode (.addm f)) .acMem .add 2 .mem) s

/-- ADDB (R184): `t <- FM[AC] + MemRead(E, 1); MemWrite(E, 1, t); FM[AC] <- t`; flags drawn. Gated by `admit_mode_variants`. -/
def execAddb (f : Basic) (s : State) : Result :=
  gated .modeVariants (encode (.addb f)) (execGeneric (encode (.addb f)) .acMem .add 3 .both) s

/-- SUB (R185): `FM[AC] <- FM[AC] - MemRead(E, 1)`; flags drawn. -/
def execSub (f : Basic) (s : State) : Result :=
  execGeneric (encode (.sub f)) .acMem .sub 4 .ac s

/-- SUBI (R186): `FM[AC] <- FM[AC] - zext36(E)`; flags drawn. Gated by `admit_mode_variants`. -/
def execSubi (f : Basic) (s : State) : Result :=
  gated .modeVariants (encode (.subi f)) (execGeneric (encode (.subi f)) .acImm .sub 5 .ac) s

/-- SUBM (R187): `MemWrite(E, 1, FM[AC] - MemRead(E, 1))`; flags drawn. Gated by `admit_mode_variants`. -/
def execSubm (f : Basic) (s : State) : Result :=
  gated .modeVariants (encode (.subm f)) (execGeneric (encode (.subm f)) .acMem .sub 6 .mem) s

/-- SUBB (R188): `t <- FM[AC] - MemRead(E, 1); MemWrite(E, 1, t); FM[AC] <- t`; flags drawn. Gated by `admit_mode_variants`. -/
def execSubb (f : Basic) (s : State) : Result :=
  gated .modeVariants (encode (.subb f)) (execGeneric (encode (.subb f)) .acMem .sub 7 .both) s

end Sys2Proof.Machine
end

