-- ==== Sys2Proof/Machine/JumpSkip.lean ====
section
/-! DEFINITION. The JRST, JUMP and SKIP families (43_jump_skip.md R200 to R227). -/

namespace Sys2Proof.Machine

/-- JRST, fast path (R202): `IR <- w; pc <- Y`. -/
def execJrstFast (y : Addr) (s : State) : Result := execFast (encode (.jrstFast y)) y s

/-- JRST, generic path (R201): `pc <- E`. -/
def execJrst (ind : Bool) (x : AcNum) (y : Addr) (s : State) : Result :=
  execGeneric (encode (.jrst ind x y)) .none .jrst 0 .none s

/-- JRST with AC not 0 (R203): refused JrstAcNonzero on entry. -/
def execJrstAc (f : Basic) (s : State) : Result := execRefuse (encode (.jrstAc f)) .jrstAcNonzero s

/-- JUMP (R210): jump to E never; FM[AC] is read whatever the condition (R204). Gated by `admit_cmp_class`. -/
def execJump (f : Basic) (s : State) : Result :=
  gated .cmpClass (encode (.jump f)) (execGeneric (encode (.jump f)) .ac .jump 0 .none) s

/-- JUMPL (R211): jump to E if `FM[AC]` < 0; FM[AC] is read whatever the condition (R204). -/
def execJumpl (f : Basic) (s : State) : Result :=
  execGeneric (encode (.jumpl f)) .ac .jump 1 .none s

/-- JUMPE (R212): jump to E if `FM[AC]` = 0; FM[AC] is read whatever the condition (R204). Gated by `admit_cmp_class`. -/
def execJumpe (f : Basic) (s : State) : Result :=
  gated .cmpClass (encode (.jumpe f)) (execGeneric (encode (.jumpe f)) .ac .jump 2 .none) s

/-- JUMPLE (R213): jump to E if `FM[AC]` ≤ 0; FM[AC] is read whatever the condition (R204). Gated by `admit_cmp_class`. -/
def execJumple (f : Basic) (s : State) : Result :=
  gated .cmpClass (encode (.jumple f)) (execGeneric (encode (.jumple f)) .ac .jump 3 .none) s

/-- JUMPA (R214): jump to E always; FM[AC] is read whatever the condition (R204). Gated by `admit_cmp_class`. -/
def execJumpa (f : Basic) (s : State) : Result :=
  gated .cmpClass (encode (.jumpa f)) (execGeneric (encode (.jumpa f)) .ac .jump 4 .none) s

/-- JUMPGE (R215): jump to E if `FM[AC]` ≥ 0; FM[AC] is read whatever the condition (R204). Gated by `admit_cmp_class`. -/
def execJumpge (f : Basic) (s : State) : Result :=
  gated .cmpClass (encode (.jumpge f)) (execGeneric (encode (.jumpge f)) .ac .jump 5 .none) s

/-- JUMPN (R216): jump to E if `FM[AC]` ≠ 0; FM[AC] is read whatever the condition (R204). Gated by `admit_cmp_class`. -/
def execJumpn (f : Basic) (s : State) : Result :=
  gated .cmpClass (encode (.jumpn f)) (execGeneric (encode (.jumpn f)) .ac .jump 6 .none) s

/-- JUMPG (R217): jump to E if `FM[AC]` > 0; FM[AC] is read whatever the condition (R204). Gated by `admit_cmp_class`. -/
def execJumpg (f : Basic) (s : State) : Result :=
  gated .cmpClass (encode (.jumpg f)) (execGeneric (encode (.jumpg f)) .ac .jump 7 .none) s

/-- SKIP (R220): `if AC ≠ 0: FM[AC] <- C(E)`; skip never (R218). Gated by `admit_cmp_class`. -/
def execSkip (f : Basic) (s : State) : Result :=
  gated .cmpClass (encode (.skip f)) (execGeneric (encode (.skip f)) .mem .skip 0 .acNz) s

/-- SKIPL (R221): `if AC ≠ 0: FM[AC] <- C(E)`; skip if `C(E)` < 0 (R218). -/
def execSkipl (f : Basic) (s : State) : Result :=
  execGeneric (encode (.skipl f)) .mem .skip 1 .acNz s

/-- SKIPE (R222): `if AC ≠ 0: FM[AC] <- C(E)`; skip if `C(E)` = 0 (R218). Gated by `admit_cmp_class`. -/
def execSkipe (f : Basic) (s : State) : Result :=
  gated .cmpClass (encode (.skipe f)) (execGeneric (encode (.skipe f)) .mem .skip 2 .acNz) s

/-- SKIPLE (R223): `if AC ≠ 0: FM[AC] <- C(E)`; skip if `C(E)` ≤ 0 (R218). Gated by `admit_cmp_class`. -/
def execSkiple (f : Basic) (s : State) : Result :=
  gated .cmpClass (encode (.skiple f)) (execGeneric (encode (.skiple f)) .mem .skip 3 .acNz) s

/-- SKIPA (R224): `if AC ≠ 0: FM[AC] <- C(E)`; skip always (R218). Gated by `admit_cmp_class`. -/
def execSkipa (f : Basic) (s : State) : Result :=
  gated .cmpClass (encode (.skipa f)) (execGeneric (encode (.skipa f)) .mem .skip 4 .acNz) s

/-- SKIPGE (R225): `if AC ≠ 0: FM[AC] <- C(E)`; skip if `C(E)` ≥ 0 (R218). Gated by `admit_cmp_class`. -/
def execSkipge (f : Basic) (s : State) : Result :=
  gated .cmpClass (encode (.skipge f)) (execGeneric (encode (.skipge f)) .mem .skip 5 .acNz) s

/-- SKIPN (R226): `if AC ≠ 0: FM[AC] <- C(E)`; skip if `C(E)` ≠ 0 (R218). Gated by `admit_cmp_class`. -/
def execSkipn (f : Basic) (s : State) : Result :=
  gated .cmpClass (encode (.skipn f)) (execGeneric (encode (.skipn f)) .mem .skip 6 .acNz) s

/-- SKIPG (R227): `if AC ≠ 0: FM[AC] <- C(E)`; skip if `C(E)` > 0 (R218). Gated by `admit_cmp_class`. -/
def execSkipg (f : Basic) (s : State) : Result :=
  gated .cmpClass (encode (.skipg f)) (execGeneric (encode (.skipg f)) .mem .skip 7 .acNz) s

end Sys2Proof.Machine
end

