-- ==== Sys2Proof/Machine/Monitor.lean ====
section
/-! DEFINITION. The monitor calls (44_monitor_unspecified.md R240 to R246): E is computed, then the word and E are handed to the
ITS service. No state is saved and no trap location is used (R241). -/

namespace Sys2Proof.Machine

/-- .IOT, opcode 0040 (R241): the service hand-off. -/
def execDotIot (f : Basic) (s : State) : Result := execGeneric (encode (.dotIot f)) .none .muuo 0 .none s

/-- .OPEN, opcode 0041 (R241): the service hand-off. -/
def execDotOpen (f : Basic) (s : State) : Result := execGeneric (encode (.dotOpen f)) .none .muuo 0 .none s

/-- .OPER, opcode 0042 (R241): the service hand-off. -/
def execDotOper (f : Basic) (s : State) : Result := execGeneric (encode (.dotOper f)) .none .muuo 0 .none s

/-- .CALL, opcode 0043 (R241): the service hand-off. -/
def execDotCall (f : Basic) (s : State) : Result := execGeneric (encode (.dotCall f)) .none .muuo 0 .none s

/-- .USET, opcode 0044 (R241): the service hand-off. -/
def execDotUset (f : Basic) (s : State) : Result := execGeneric (encode (.dotUset f)) .none .muuo 0 .none s

/-- .BREAK, opcode 0045 (R241): the service hand-off. -/
def execDotBreak (f : Basic) (s : State) : Result := execGeneric (encode (.dotBreak f)) .none .muuo 0 .none s

/-- .STATUS, opcode 0046 (R241): the service hand-off. -/
def execDotStatus (f : Basic) (s : State) : Result := execGeneric (encode (.dotStatus f)) .none .muuo 0 .none s

/-- .ACCESS, opcode 0047 (R241): the service hand-off. -/
def execDotAccess (f : Basic) (s : State) : Result := execGeneric (encode (.dotAccess f)) .none .muuo 0 .none s

/-- MUUO050, opcode 0050 (R241): the service hand-off. -/
def execMuuo050 (f : Basic) (s : State) : Result := execGeneric (encode (.muuo050 f)) .none .muuo 0 .none s

/-- MUUO051, opcode 0051 (R241): the service hand-off. -/
def execMuuo051 (f : Basic) (s : State) : Result := execGeneric (encode (.muuo051 f)) .none .muuo 0 .none s

/-- MUUO052, opcode 0052 (R241): the service hand-off. -/
def execMuuo052 (f : Basic) (s : State) : Result := execGeneric (encode (.muuo052 f)) .none .muuo 0 .none s

/-- MUUO053, opcode 0053 (R241): the service hand-off. -/
def execMuuo053 (f : Basic) (s : State) : Result := execGeneric (encode (.muuo053 f)) .none .muuo 0 .none s

/-- MUUO054, opcode 0054 (R241): the service hand-off. -/
def execMuuo054 (f : Basic) (s : State) : Result := execGeneric (encode (.muuo054 f)) .none .muuo 0 .none s

/-- MUUO055, opcode 0055 (R241): the service hand-off. -/
def execMuuo055 (f : Basic) (s : State) : Result := execGeneric (encode (.muuo055 f)) .none .muuo 0 .none s

/-- MUUO056, opcode 0056 (R241): the service hand-off. -/
def execMuuo056 (f : Basic) (s : State) : Result := execGeneric (encode (.muuo056 f)) .none .muuo 0 .none s

/-- MUUO057, opcode 0057 (R241): the service hand-off. -/
def execMuuo057 (f : Basic) (s : State) : Result := execGeneric (encode (.muuo057 f)) .none .muuo 0 .none s

/-- MUUO060, opcode 0060 (R241): the service hand-off. -/
def execMuuo060 (f : Basic) (s : State) : Result := execGeneric (encode (.muuo060 f)) .none .muuo 0 .none s

/-- MUUO061, opcode 0061 (R241): the service hand-off. -/
def execMuuo061 (f : Basic) (s : State) : Result := execGeneric (encode (.muuo061 f)) .none .muuo 0 .none s

/-- MUUO062, opcode 0062 (R241): the service hand-off. -/
def execMuuo062 (f : Basic) (s : State) : Result := execGeneric (encode (.muuo062 f)) .none .muuo 0 .none s

/-- MUUO063, opcode 0063 (R241): the service hand-off. -/
def execMuuo063 (f : Basic) (s : State) : Result := execGeneric (encode (.muuo063 f)) .none .muuo 0 .none s

/-- MUUO064, opcode 0064 (R241): the service hand-off. -/
def execMuuo064 (f : Basic) (s : State) : Result := execGeneric (encode (.muuo064 f)) .none .muuo 0 .none s

/-- MUUO065, opcode 0065 (R241): the service hand-off. -/
def execMuuo065 (f : Basic) (s : State) : Result := execGeneric (encode (.muuo065 f)) .none .muuo 0 .none s

/-- MUUO066, opcode 0066 (R241): the service hand-off. -/
def execMuuo066 (f : Basic) (s : State) : Result := execGeneric (encode (.muuo066 f)) .none .muuo 0 .none s

/-- MUUO067, opcode 0067 (R241): the service hand-off. -/
def execMuuo067 (f : Basic) (s : State) : Result := execGeneric (encode (.muuo067 f)) .none .muuo 0 .none s

/-- MUUO070, opcode 0070 (R241): the service hand-off. -/
def execMuuo070 (f : Basic) (s : State) : Result := execGeneric (encode (.muuo070 f)) .none .muuo 0 .none s

/-- MUUO071, opcode 0071 (R241): the service hand-off. -/
def execMuuo071 (f : Basic) (s : State) : Result := execGeneric (encode (.muuo071 f)) .none .muuo 0 .none s

/-- MUUO072, opcode 0072 (R241): the service hand-off. -/
def execMuuo072 (f : Basic) (s : State) : Result := execGeneric (encode (.muuo072 f)) .none .muuo 0 .none s

/-- MUUO073, opcode 0073 (R241): the service hand-off. -/
def execMuuo073 (f : Basic) (s : State) : Result := execGeneric (encode (.muuo073 f)) .none .muuo 0 .none s

/-- MUUO074, opcode 0074 (R241): the service hand-off. -/
def execMuuo074 (f : Basic) (s : State) : Result := execGeneric (encode (.muuo074 f)) .none .muuo 0 .none s

/-- MUUO075, opcode 0075 (R241): the service hand-off. -/
def execMuuo075 (f : Basic) (s : State) : Result := execGeneric (encode (.muuo075 f)) .none .muuo 0 .none s

/-- MUUO076, opcode 0076 (R241): the service hand-off. -/
def execMuuo076 (f : Basic) (s : State) : Result := execGeneric (encode (.muuo076 f)) .none .muuo 0 .none s

/-- MUUO077, opcode 0077 (R241): the service hand-off. -/
def execMuuo077 (f : Basic) (s : State) : Result := execGeneric (encode (.muuo077 f)) .none .muuo 0 .none s

/-- JSYS, opcode 0104 (R241): the service hand-off. -/
def execJsys (f : Basic) (s : State) : Result := execGeneric (encode (.jsys f)) .none .muuo 0 .none s

end Sys2Proof.Machine
end

