-- ==== Sys2Proof/Machine/Move.lean ====
section
/-! DEFINITION. The MOVE and MOVN families (41_move.md R160 to R168). Each is a choice of uops (30_encoding.md R86); all but
the writes of its uops is the common prefix of R125. -/

namespace Sys2Proof.Machine

/-- MOVE (R161): `FM[AC] <- MemRead(E, 1)`. -/
def execMove (f : Basic) (s : State) : Result :=
  execGeneric (encode (.move f)) .mem .pass 0 .ac s

/-- MOVEI (R162): `FM[AC] <- zext36(E)`. -/
def execMovei (f : Basic) (s : State) : Result :=
  execGeneric (encode (.movei f)) .imm .pass 1 .ac s

/-- MOVEM (R163): `MemWrite(E, 1, FM[AC])`. -/
def execMovem (f : Basic) (s : State) : Result :=
  execGeneric (encode (.movem f)) .ac .pass 2 .mem s

/-- MOVES (R164): `t <- MemRead(E, 1); MemWrite(E, 1, t); if AC ≠ 0: FM[AC] <- t`. Gated by `admit_mode_variants`. -/
def execMoves (f : Basic) (s : State) : Result :=
  gated .modeVariants (encode (.moves f)) (execGeneric (encode (.moves f)) .mem .pass 3 .self) s

/-- MOVN (R165): `FM[AC] <- -MemRead(E, 1)`; flags drawn. -/
def execMovn (f : Basic) (s : State) : Result :=
  execGeneric (encode (.movn f)) .mem .neg 0 .ac s

/-- MOVNI (R166): `FM[AC] <- -zext36(E)`; flags drawn. Gated by `admit_mode_variants`. -/
def execMovni (f : Basic) (s : State) : Result :=
  gated .modeVariants (encode (.movni f)) (execGeneric (encode (.movni f)) .imm .neg 1 .ac) s

/-- MOVNM (R167): `MemWrite(E, 1, -FM[AC])`; flags drawn. Gated by `admit_mode_variants`. -/
def execMovnm (f : Basic) (s : State) : Result :=
  gated .modeVariants (encode (.movnm f)) (execGeneric (encode (.movnm f)) .ac .neg 2 .mem) s

/-- MOVNS (R168): `t <- -MemRead(E, 1); MemWrite(E, 1, t); if AC ≠ 0: FM[AC] <- t`; flags drawn. Gated by `admit_mode_variants`. -/
def execMovns (f : Basic) (s : State) : Result :=
  gated .modeVariants (encode (.movns f)) (execGeneric (encode (.movns f)) .mem .neg 3 .self) s

end Sys2Proof.Machine
end

