-- ==== Sys2Proof/Machine/Unspecified.lean ====
section
/-! DEFINITION. The instructions to which the spec gives no meaning: the IO functions (44_monitor_unspecified.md R251 to R258),
XCTRI and XCTR (R259, R260), EXCH (R247) and the unlisted opcodes (R250). Each ends the run on entry, before any effective
address (40_decode_dispatch.md R124). -/

namespace Sys2Proof.Machine

/-- BLKI, FN = 0 (R251): refused Unlisted. -/
def execBlki (f : IoFields) (s : State) : Result := execRefuse (encode (.blki f)) .unlisted s

/-- DATAI, FN = 1 (R252): refused IoUnspecified. -/
def execDatai (f : IoFields) (s : State) : Result := execRefuse (encode (.datai f)) .ioUnspecified s

/-- BLKO, FN = 2 (R253): refused Unlisted. -/
def execBlko (f : IoFields) (s : State) : Result := execRefuse (encode (.blko f)) .unlisted s

/-- DATAO, FN = 3 (R254): refused IoUnspecified. -/
def execDatao (f : IoFields) (s : State) : Result := execRefuse (encode (.datao f)) .ioUnspecified s

/-- CONO, FN = 4 (R255): refused IoUnspecified. -/
def execCono (f : IoFields) (s : State) : Result := execRefuse (encode (.cono f)) .ioUnspecified s

/-- CONI, FN = 5 (R256): refused IoUnspecified. -/
def execConi (f : IoFields) (s : State) : Result := execRefuse (encode (.coni f)) .ioUnspecified s

/-- CONSZ, FN = 6 (R257): refused Unlisted. -/
def execConsz (f : IoFields) (s : State) : Result := execRefuse (encode (.consz f)) .unlisted s

/-- CONSO, FN = 7 (R258): refused Unlisted. -/
def execConso (f : IoFields) (s : State) : Result := execRefuse (encode (.conso f)) .unlisted s

/-- XCTRI (R259): refused XctrUnspecified. -/
def execXctri (f : Basic) (s : State) : Result := execRefuse (encode (.xctri f)) .xctrUnspecified s

/-- XCTR (R260): refused XctrUnspecified. -/
def execXctr (f : Basic) (s : State) : Result := execRefuse (encode (.xctr f)) .xctrUnspecified s

/-- EXCH (R247): refused ExchUnspecified. -/
def execExch (f : Basic) (s : State) : Result := execRefuse (encode (.exch f)) .exchUnspecified s

/-- Every word whose opcode the source does not name (R250): refused Unlisted. -/
def execUnlisted (w : Word) (s : State) : Result := execRefuse w .unlisted s

end Sys2Proof.Machine
end

