-- ==== Sys2Proof/Machine/Dispatch.lean ====
section
/-! DEFINITION. The dispatch: one arm per row of the opcode table. -/

namespace Sys2Proof.Machine

def exec (i : Instr) (s : State) : Host.Outcome State Fault Refusal :=
  match i with
  | .blki f => Sys2Proof.Machine.execBlki f s
  | .datai f => Sys2Proof.Machine.execDatai f s
  | .blko f => Sys2Proof.Machine.execBlko f s
  | .datao f => Sys2Proof.Machine.execDatao f s
  | .cono f => Sys2Proof.Machine.execCono f s
  | .coni f => Sys2Proof.Machine.execConi f s
  | .consz f => Sys2Proof.Machine.execConsz f s
  | .conso f => Sys2Proof.Machine.execConso f s
  | .dotIot f => Sys2Proof.Machine.execDotIot f s
  | .dotOpen f => Sys2Proof.Machine.execDotOpen f s
  | .dotOper f => Sys2Proof.Machine.execDotOper f s
  | .dotCall f => Sys2Proof.Machine.execDotCall f s
  | .dotUset f => Sys2Proof.Machine.execDotUset f s
  | .dotBreak f => Sys2Proof.Machine.execDotBreak f s
  | .dotStatus f => Sys2Proof.Machine.execDotStatus f s
  | .dotAccess f => Sys2Proof.Machine.execDotAccess f s
  | .muuo050 f => Sys2Proof.Machine.execMuuo050 f s
  | .muuo051 f => Sys2Proof.Machine.execMuuo051 f s
  | .muuo052 f => Sys2Proof.Machine.execMuuo052 f s
  | .muuo053 f => Sys2Proof.Machine.execMuuo053 f s
  | .muuo054 f => Sys2Proof.Machine.execMuuo054 f s
  | .muuo055 f => Sys2Proof.Machine.execMuuo055 f s
  | .muuo056 f => Sys2Proof.Machine.execMuuo056 f s
  | .muuo057 f => Sys2Proof.Machine.execMuuo057 f s
  | .muuo060 f => Sys2Proof.Machine.execMuuo060 f s
  | .muuo061 f => Sys2Proof.Machine.execMuuo061 f s
  | .muuo062 f => Sys2Proof.Machine.execMuuo062 f s
  | .muuo063 f => Sys2Proof.Machine.execMuuo063 f s
  | .muuo064 f => Sys2Proof.Machine.execMuuo064 f s
  | .muuo065 f => Sys2Proof.Machine.execMuuo065 f s
  | .muuo066 f => Sys2Proof.Machine.execMuuo066 f s
  | .muuo067 f => Sys2Proof.Machine.execMuuo067 f s
  | .muuo070 f => Sys2Proof.Machine.execMuuo070 f s
  | .muuo071 f => Sys2Proof.Machine.execMuuo071 f s
  | .muuo072 f => Sys2Proof.Machine.execMuuo072 f s
  | .muuo073 f => Sys2Proof.Machine.execMuuo073 f s
  | .muuo074 f => Sys2Proof.Machine.execMuuo074 f s
  | .muuo075 f => Sys2Proof.Machine.execMuuo075 f s
  | .muuo076 f => Sys2Proof.Machine.execMuuo076 f s
  | .muuo077 f => Sys2Proof.Machine.execMuuo077 f s
  | .jsys f => Sys2Proof.Machine.execJsys f s
  | .xctri f => Sys2Proof.Machine.execXctri f s
  | .xctr f => Sys2Proof.Machine.execXctr f s
  | .exch f => Sys2Proof.Machine.execExch f s
  | .jrstFast y => Sys2Proof.Machine.execJrstFast y s
  | .jrst ind x y => Sys2Proof.Machine.execJrst ind x y s
  | .jrstAc f => Sys2Proof.Machine.execJrstAc f s
  | .move f => Sys2Proof.Machine.execMove f s
  | .movei f => Sys2Proof.Machine.execMovei f s
  | .movem f => Sys2Proof.Machine.execMovem f s
  | .moves f => Sys2Proof.Machine.execMoves f s
  | .movn f => Sys2Proof.Machine.execMovn f s
  | .movni f => Sys2Proof.Machine.execMovni f s
  | .movnm f => Sys2Proof.Machine.execMovnm f s
  | .movns f => Sys2Proof.Machine.execMovns f s
  | .add f => Sys2Proof.Machine.execAdd f s
  | .addi f => Sys2Proof.Machine.execAddi f s
  | .addm f => Sys2Proof.Machine.execAddm f s
  | .addb f => Sys2Proof.Machine.execAddb f s
  | .sub f => Sys2Proof.Machine.execSub f s
  | .subi f => Sys2Proof.Machine.execSubi f s
  | .subm f => Sys2Proof.Machine.execSubm f s
  | .subb f => Sys2Proof.Machine.execSubb f s
  | .jump f => Sys2Proof.Machine.execJump f s
  | .jumpl f => Sys2Proof.Machine.execJumpl f s
  | .jumpe f => Sys2Proof.Machine.execJumpe f s
  | .jumple f => Sys2Proof.Machine.execJumple f s
  | .jumpa f => Sys2Proof.Machine.execJumpa f s
  | .jumpge f => Sys2Proof.Machine.execJumpge f s
  | .jumpn f => Sys2Proof.Machine.execJumpn f s
  | .jumpg f => Sys2Proof.Machine.execJumpg f s
  | .skip f => Sys2Proof.Machine.execSkip f s
  | .skipl f => Sys2Proof.Machine.execSkipl f s
  | .skipe f => Sys2Proof.Machine.execSkipe f s
  | .skiple f => Sys2Proof.Machine.execSkiple f s
  | .skipa f => Sys2Proof.Machine.execSkipa f s
  | .skipge f => Sys2Proof.Machine.execSkipge f s
  | .skipn f => Sys2Proof.Machine.execSkipn f s
  | .skipg f => Sys2Proof.Machine.execSkipg f s
  | .unlisted w => Sys2Proof.Machine.execUnlisted w s

end Sys2Proof.Machine
end

