-- ==== Sys2Proof/Machine/Step.lean ====
section
/-! DEFINITION. The step of the block (40_decode_dispatch.md R120), and the host's way to place one word where the next step
runs it. -/

namespace Sys2Proof.Machine

/-- The entry into a DECODED slot (R120): the instruction of the selection's word, where the selection is the one that `DEC`
gives it, which is so in every run; else the uops that the selection names (log 23). -/
def enterDecoded (sel : Sel) (s : State) : Host.Outcome State Fault Refusal :=
  match sel.instr? s.config with
  | some i => exec i s
  | none => execSel sel s

/-- One step at `a = PC` (R120), while the status is Running (R34) and after `run` (R32). -/
def step (s : State) : Host.Outcome State Fault Refusal :=
  if s.status ≠ .running then .refused .ended
  else if s.started = false then .refused .notStarted
  else
    match s.slotAt s.pc with
    | .stub => decodeStep s
    | .unmapped => enterUnmapped s
    | .decoded sel => enterDecoded sel s

/-- The state in which the next step runs the instruction whose bits are `w`: the word in memory at PC and decoded in the
slot at PC, the machine running. It stands for the load and the `run` of 70_reset_and_hazards.md R302 (log 22). -/
def State.withFetchWord (s : State) (_nbits w : Nat) : State := placeWord (BitVec.ofNat 36 w) s

end Sys2Proof.Machine
end

