-- ==== Sys2Proof/Safety.lean ====
section
/-! DEFINITION. The terms in which claims speak: well-formed states, the lockstep invariant (10_state.md R22), what a claim may
observe (R39), and the runs of the machine with its host (R6, R35). -/

namespace Sys2Proof.Machine

/-- Memory keeps the area invariant (20_memory.md R53) and the slot table its canonical form. -/
def State.Wf (s : State) : Prop := s.mem.wf ∧ s.slots.wf

/-- The lockstep invariant (10_state.md R22): a DECODED slot reflects the word stored at its address. -/
def State.Lockstep (s : State) : Prop :=
  ∀ a sel, s.slotAt a = .decoded sel → s.memGet a = some sel.word ∧ dec s.config sel.word = sel

/-- What a claim may observe is the same (R39): `PC`, `FM`, the memory contents and `status`. -/
def SameObs (s t : State) : Prop :=
  s.pc = t.pc ∧ s.fm = t.fm ∧ (∀ a, s.memGet a = t.memGet a) ∧ s.status = t.status

/-- Two states that differ in no more than the hidden registers: `flags`, `AC` and the scratch registers (R28, R30, R39). -/
def SameButHidden (s t : State) : Prop :=
  t = { s with flags := t.flags, ac := t.ac, ir := t.ir, ar := t.ar, br := t.br, mq := t.mq, ma := t.ma, mb := t.mb }

/-- Two outcomes of one kind: next states that are related, or the same stop with related states kept. -/
def OutcomesRelate (R : State → State → Prop) (q r : Result) : Prop :=
  match q, r with
  | .next s, .next t => R s t
  | .fault (.raised k s), .fault (.raised j t) => k = j ∧ R s t
  | .fault (.stuck s), .fault (.stuck t) => R s t
  | .refused (.declined k s), .refused (.declined j t) => k = j ∧ R s t
  | .refused x, .refused y => x = y
  | _, _ => False

/-- The host operations that keep the slot table in step with memory: all but the raw `set_word_at` (20_memory.md R62) and
`run`, which brings a memory of its own. -/
def HostOp.keepsLockstep : HostOp → Bool
  | .setWordAt _ _ => false
  | .run _ _ => false
  | .addMemory _ _ => true
  | .writeMemory _ _ => true
  | .invalidateWord _ => true
  | .purePage _ => true
  | .unpurePage _ => true
  | .unmappedPage _ => true
  | .getWordAt _ => true
  | .setAddress _ => true
  | .getNext => true

/-- A reply of the service layer with no host step inside it that leaves a slot behind. -/
def ServiceReply.keepsLockstep : ServiceReply → Bool
  | .cont eff => eff.host.all HostOp.keepsLockstep
  | .fault _ => true
  | .noReturn => true

/-- A state that a run can reach from either start, the model's reset or that of R32: host operations before `run`, then
steps (R35). Host operations inside a monitor service are part of its step. -/
inductive Reached : State → Prop where
  | reset : Reached State.reset
  | resetUnwritten : Reached State.resetUnwritten
  | host {s t : State} {op : HostOp} {r : HostReply} :
      Reached s → s.started = false → hostStep op s = .next (t, r) → Reached t
  | step {s t : State} : Reached s → step s = .next t → Reached t

/-- A safe state: the machine has not ended in a fault or a refusal, and its next step does not either. -/
def State.Safe (s : State) : Prop := (s.status = .running ∧ ∃ t, step s = .next t) ∨ s.status = .exit

end Sys2Proof.Machine
end

