-- ==== Sys2Proof/Certificates/Slice0/Obligations.lean ====
section
/-! DEFINITION. The statements for the provers, one `def Obligations.<Name> : Prop` each. The words they share stand first, under
`Sys2Proof.Claims`; they say in the terms of the spec's rules what a state looks like after the common parts of an
instruction. -/

namespace Sys2Proof.Claims

open Machine

/-- The state at the end of EA calculation (40_decode_dispatch.md R125 to R127): IR, AC, MA and MB are written. -/
def entered (i : Instr) (ac : AcNum) (e : Addr) (mb : Word) (s : State) : State :=
  { s with ir := encode i, ac := ac, ma := e.setWidth 36, mb := mb }

/-- `FM[i] <- v` and nothing else. -/
def setAc (i : AcNum) (v : Word) (s : State) : State := { s with fm := s.fm.set i.toNat (some v) i.isLt }

/-- `if AC ≠ 0: FM[AC] <- v`. -/
def setAcNonzero (i : AcNum) (v : Word) (s : State) : State := if i = 0 then s else setAc i v s

/-- `MemWrite(e, 1, v)` where `e` reaches an accumulator or a mapped word (20_memory.md R61): nothing can fail. -/
def afterWrite (e : Addr) (v : Word) (s : State) : State :=
  if aliasesFm s e then setAc (aliasedAc e) v s
  else { s with mem := putWord s.mem e.toNat v, slots := slotSet s.slots e.toNat .stub }

/-- `flags <- draw` (10_state.md R28): a free value. -/
def flagsDrawn (s : State) : State := { s with flags := Config.flagsDraw s.draws, draws := s.draws + 1 }

/-- The PC moves on by one, modulo 2^18 (40_decode_dispatch.md R150). -/
def onward (s : State) : State := { s with pc := BitVec.ofNat 18 (s.pc.toNat + 1) }

/-- `MemWrite(e, 1, v)` at an address that is unmapped (20_memory.md R56, R73), then `PC + 1`: the new one-word area, or
OutOfMemory, as the draw `oom` says. -/
def newAreaOutcome (e : Addr) (v : Word) (s : State) : Result :=
  if (drawAlloc s).1 then raise .outOfMemory { s with draws := s.draws + 1, allocScript := s.allocScript.tail }
  else
    .next (onward
      { s with
        mem := insertArea ⟨e.toNat, Config.areaFlags s.draws, [v]⟩ s.mem
        slots := slotSet s.slots e.toNat .stub
        draws := s.draws + 1
        allocScript := s.allocScript.tail })

/-- The table of 43_jump_skip.md R200, on `signed36(v)`. -/
def test (c : BitVec 3) (v : Int) : Prop :=
  (c = 1 ∧ v < 0) ∨ (c = 2 ∧ v = 0) ∨ (c = 3 ∧ v ≤ 0) ∨ c = 4 ∨ (c = 5 ∧ 0 ≤ v) ∨ (c = 6 ∧ v ≠ 0) ∨ (c = 7 ∧ 0 < v)

/-- The JUMP instruction of a condition code (R204, R210 to R217). -/
def jumpOf (c : BitVec 3) (f : Basic) : Instr :=
  match c.toNat with
  | 0 => .jump f | 1 => .jumpl f | 2 => .jumpe f | 3 => .jumple f | 4 => .jumpa f | 5 => .jumpge f | 6 => .jumpn f | _ => .jumpg f

/-- The SKIP instruction of a condition code (R218, R220 to R227). -/
def skipOf (c : BitVec 3) (f : Basic) : Instr :=
  match c.toNat with
  | 0 => .skip f | 1 => .skipl f | 2 => .skipe f | 3 => .skiple f | 4 => .skipa f | 5 => .skipge f | 6 => .skipn f | _ => .skipg f

/-- The monitor calls: .IOT, .OPEN, .OPER, .CALL, .USET, .BREAK, .STATUS, .ACCESS, MUUO050 to MUUO077, JSYS (R241). -/
def monitorCalls (f : Basic) : List Instr :=
    [.dotIot f, .dotOpen f, .dotOper f, .dotCall f, .dotUset f, .dotBreak f, .dotStatus f, .dotAccess f,
    .muuo050 f, .muuo051 f, .muuo052 f, .muuo053 f, .muuo054 f, .muuo055 f, .muuo056 f, .muuo057 f,
    .muuo060 f, .muuo061 f, .muuo062 f, .muuo063 f, .muuo064 f, .muuo065 f, .muuo066 f, .muuo067 f,
    .muuo070 f, .muuo071 f, .muuo072 f, .muuo073 f, .muuo074 f, .muuo075 f, .muuo076 f, .muuo077 f, .jsys f]

/-- The instruction is a monitor call. -/
def monitorCall (f : Basic) (i : Instr) : Prop := i ∈ monitorCalls f

/-- The call number of a monitor call at the effective address `e`, at the point of the call. -/
def calledNumber (f : Basic) (i : Instr) (e : Addr) (mb : Word) (s : State) : Nat :=
  callNumber (entered i f.ac e mb s) (encode i) e

/-- The service of that number: one of the four, or none. -/
def calledService (f : Basic) (i : Instr) (e : Addr) (mb : Word) (s : State) : Option ItsService :=
  namedService s.config (calledNumber f i e mb s)

/-- The reply that the service gives to a monitor call, at the point of the call. -/
def replyTo (f : Basic) (i : Instr) (e : Addr) (mb : Word) (s : State) : ServiceReply :=
  (drawReply (encode i) e (entered i f.ac e mb s)).1

/-- Where the instruction is a monitor call, it is the same call with the same reply in both states. -/
def calledAlike (i : Instr) (s s' : State) : Prop :=
  ∀ f e mb mb', monitorCall f i → eaOf s (encode i) = .done e mb → eaOf s' (encode i) = .done e mb' →
    calledNumber f i e mb s = calledNumber f i e mb' s' ∧ replyTo f i e mb s = replyTo f i e mb' s'

/-- The instructions whose rule says "flags: draw" (10_state.md R28, R36). -/
def drawsFlags (f : Basic) (i : Instr) : Prop :=
  i ∈ [.movn f, .movni f, .movnm f, .movns f, .add f, .addi f, .addm f, .addb f, .sub f, .subi f, .subm f, .subb f]

/-- The instructions whose result goes to `FM[AC]` alone (10_state.md R36). -/
def toAccumulator (f : Basic) (i : Instr) : Prop :=
  i ∈ [.move f, .movei f, .movn f, .movni f, .add f, .addi f, .sub f, .subi f]

/-- The instructions that write memory at E, and `FM[AC]` at most (10_state.md R36). -/
def toMemory (f : Basic) (i : Instr) : Prop :=
  i ∈ [.movem f, .moves f, .movnm f, .movns f, .addm f, .addb f, .subm f, .subb f]

/-- The instructions with a gate (30_encoding.md R86): those of `admit_mode_variants`. -/
def modeVariant (f : Basic) (i : Instr) : Prop :=
  i ∈ [.moves f, .movni f, .movnm f, .movns f, .addm f, .addb f, .subi f, .subm f, .subb f]

/-- `DEC` gives the instruction's word a generic selection, so that it is run by its uops (40_decode_dispatch.md R110, R125). -/
def runsGeneric (c : Config) (i : Instr) : Prop := ∃ w rd op cond wb, dec c (encode i) = .generic w rd op cond wb

/-- The instruction can take a step: its status is Running and `run` has been called. -/
def live (s : State) : Prop := s.status = .running ∧ s.started = true

end Sys2Proof.Claims

open Sys2Proof Sys2Proof.Machine Sys2Proof.Claims

/-! ## Encoding and decoding -/

/-- Every well-formed instruction decodes from its word, whatever its operands (30_encoding.md R81, R82, R86, R87). -/
def Obligations.DecodeInvertsEncode : Prop := ∀ i : Instr, i.wf = true → decode (encode i) = i

/-- Every word decodes to a well-formed instruction whose word it is: no bit of a word is dropped (R80 to R82). -/
def Obligations.EncodeInvertsDecode : Prop := ∀ w : Word, (decode w).wf = true ∧ encode (decode w) = w

/-- R81: the five fields of a word of the basic format, by their places, and the word as their sum. -/
def Obligations.BasicFormatFields : Prop :=
  ∀ w : Word, classOf w ≠ 7 →
    (opOf w).toNat = w.toNat / 2 ^ 27 ∧
    (acOf w).toNat = w.toNat / 2 ^ 23 % 2 ^ 4 ∧
    (indOf w).toNat = w.toNat / 2 ^ 22 % 2 ∧
    (xOf w).toNat = w.toNat / 2 ^ 18 % 2 ^ 4 ∧
    (yOf w).toNat = w.toNat % 2 ^ 18 ∧
    w.toNat = (opOf w).toNat * 2 ^ 27 + (acOf w).toNat * 2 ^ 23 + (indOf w).toNat * 2 ^ 22 + (xOf w).toNat * 2 ^ 18 + (yOf w).toNat

/-- Words written out from R81, R82 and R86, one for each family, decode to what they stand for (704200000000 is a word of
95_test_vectors.md section 2.1, whose "DEV = 1" is 8 by the bits of R82, log 25). -/
def Obligations.SampleWordsDecode : Prop :=
  decode 0o200040000100 = .move ⟨1, false, 0, 0o100⟩ ∧
  decode 0o201062002000 = .movei ⟨1, true, 2, 0o2000⟩ ∧
  decode 0o274040000200 = .sub ⟨1, false, 0, 0o200⟩ ∧
  decode 0o321140000107 = .jumpl ⟨3, false, 0, 0o107⟩ ∧
  decode 0o331300000752 = .skipl ⟨6, false, 0, 0o752⟩ ∧
  decode 0o254000001234 = .jrstFast 0o1234 ∧
  decode 0o254020000500 = .jrst true 0 0o500 ∧
  decode 0o254200000000 = .jrstAc ⟨4, false, 0, 0⟩ ∧
  decode 0o043000000200 = .dotCall ⟨0, false, 0, 0o200⟩ ∧
  decode 0o704200000000 = .cono ⟨8, false, 0, 0⟩ ∧
  decode 0o777777777777 = .conso ⟨0o177, true, 0o17, 0o777777⟩ ∧
  decode 0o350000000000 = .unlisted 0o350000000000

/-- R113: `DEC` gives the fast path exactly to JRST with AC = 0, I = 0 and X = 0, with target Y; with I = 1 or X ≠ 0 it gives
the generic path. -/
def Obligations.FastPathExactly : Prop :=
  ∀ (c : Config) (w : Word),
    (∀ t, dec c w = .fastJump w t ↔ (opOf w = 0o254 ∧ acOf w = 0 ∧ indOf w = false ∧ xOf w = 0) ∧ t = yOf w) ∧
    (opOf w = 0o254 → acOf w = 0 → (indOf w = true ∨ xOf w ≠ 0) → dec c w = .generic w .none .jrst 0 .none)

/-- The instruction of a word and the selection that `DEC` gives the word run alike, in every state and under every value of
the gates (R111, R86 and the instruction rules). -/
def Obligations.InstructionRunsItsSelection : Prop :=
  ∀ (w : Word) (s : State), exec (decode w) s = execSel (dec s.config w) s

/-- Selection and slot codes (R116, R117): a slot is found again from its codes, and a slot written by codes is refused
BadCode exactly where a code is one that is never produced; else the port writes the slot of the codes and nothing more. The
numbers are the rules', and those of the faults are of 60_exceptions.md R273. Which fields are checked, and the 0 of an unused
field, are the model's choice (log 24). -/
def Obligations.SlotCodes : Prop :=
  (∀ slot : Slot, Slot.ofCodes slot.tag slot.codes = some slot) ∧
  ([Rd.none, .mem, .imm, .ac, .acMem, .acImm].map Rd.code = [0, 1, 2, 3, 4, 5] ∧
    [Op.pass, .neg, .add, .sub, .jump, .skip, .jrst, .muuo].map Op.code = [0, 1, 2, 3, 4, 5, 6, 7] ∧
    [Wb.none, .ac, .mem, .both, .self, .acNz].map Wb.code = [0, 1, 2, 3, 4, 5] ∧
    [Reason.unlisted, .notAdmitted, .exchUnspecified, .ioUnspecified, .xctrUnspecified, .jrstAcNonzero].map Reason.code =
      [0, 1, 2, 3, 4, 5] ∧
    (∀ sel, [Slot.stub, .decoded sel, .unmapped].map Slot.tag = [0, 1, 2] ∧ (Slot.decoded sel).codes = sel.codes) ∧
    (∀ w rd op cond wb, (Sel.generic w rd op cond wb).codes = ⟨0, rd.code, op.code, cond, wb.code, 0, 0, w⟩) ∧
    (∀ w t, (Sel.fastJump w t).codes = ⟨1, 0, 0, 0, 0, 0, t, w⟩) ∧
    (∀ w r, (Sel.refuse w r).codes = ⟨2, 0, 0, 0, 0, r.code, 0, w⟩)) ∧
  ((∀ a acc, (FaultKind.unmapped a acc).code = 1) ∧ (∀ i, (FaultKind.undefinedRegister i).code = 2) ∧
    FaultKind.outOfMemory.code = 3 ∧ ∀ n, (FaultKind.muuoUnimplemented n).code = 4) ∧
  (∀ (a : Addr) (tag : BitVec 2) (v : SelCodes) (slot : Slot) (s : State), Slot.ofCodes tag v = some slot →
    ∃ t, writeSlotCodes a tag v s = .next t ∧ t = { s with slots := t.slots } ∧ t.slotAt a = slot ∧
      ∀ b, b ≠ a → t.slotAt b = s.slotAt b) ∧
  (∀ (a : Addr) (tag : BitVec 2) (v : SelCodes) (s : State),
    writeSlotCodes a tag v s = refuse .badCode s ↔
      (tag = 3 ∨ (tag = 1 ∧ (v.kind = 3 ∨ 6 ≤ v.rd.toNat ∨ 6 ≤ v.wb.toNat ∨ 6 ≤ v.reason.toNat))))

/-! ## The step -/

/-- When the slot at PC holds the selection of a word, the step is `exec` of the word's instruction; at a STUB over a mapped
word it is the decode step, and the step after it is `exec` of the word's instruction (R120, R121). Nothing is added
around `exec`. -/
def Obligations.StepRunsTheDecodedInstruction : Prop :=
  ∀ (s : State) (w : Word), live s →
    (s.slotAt s.pc = .decoded (dec s.config w) → step s = exec (decode w) s) ∧
    (s.slotAt s.pc = .stub → s.memGet s.pc = some w →
      ∃ t, step s = .next t ∧ t = { s with slots := slotSet s.slots s.pc.toNat (.decoded (dec s.config w)) } ∧
        step t = exec (decode w) t)

/-- R120, arm by arm, for every slot, one that `DEC` never gives among them. -/
def Obligations.StepFollowsTheSlot : Prop :=
  ∀ s : State, live s →
    (s.slotAt s.pc = .stub → step s = decodeStep s) ∧
    (s.slotAt s.pc = .unmapped → step s = raise (.unmapped s.pc .fetch) s) ∧
    (∀ w t, s.slotAt s.pc = .decoded (.fastJump w t) → step s = execFast w t s) ∧
    (∀ w r, s.slotAt s.pc = .decoded (.refuse w r) → step s = execRefuse w r s) ∧
    (∀ w rd op cond wb, s.slotAt s.pc = .decoded (.generic w rd op cond wb) → step s = execGeneric w rd op cond wb s)

/-- R121 and R122: the decode step reads memory whatever `ac_alias` is, and changes the slot alone; a STUB over an unmapped word
faults, and an UNMAPPED slot faults whatever memory holds. -/
def Obligations.StubDecodesAndUnmappedFaults : Prop :=
  ∀ s : State, live s →
    (s.slotAt s.pc = .stub →
      (∀ w, s.memGet s.pc = some w →
        ∃ t, step s = .next t ∧ t = { s with slots := t.slots } ∧ t.slotAt s.pc = .decoded (dec s.config w) ∧
          ∀ a, a ≠ s.pc → t.slotAt a = s.slotAt a) ∧
      (s.memGet s.pc = none → step s = raise (.unmapped s.pc .fetch) s)) ∧
    (s.slotAt s.pc = .unmapped →
      step s = .fault (.raised (.unmapped s.pc .fetch) { s with status := .fault (.unmapped s.pc .fetch) }))

/-- Before `run` there is no step, for PC holds no value (10_state.md R32, 70_reset_and_hazards.md R300) and so names no slot; in a
terminal state no step is enabled (R34), and no host step either. That the model answers with the refusals `notStarted` and
`ended` is its own choice (log 4, log 10). -/
def Obligations.NoStepUnlessLive : Prop :=
  ∀ s : State,
    (s.status = .running → s.started = false → step s = .refused .notStarted) ∧
    (s.status ≠ .running → step s = .refused .ended ∧ ∀ op, hostStep op s = .refused .ended)

/-! ## Effective address -/

/-- R127, level by level: Y, plus the index modulo 2^18 where X is not 0, before the indirect bit is tested; and the faults of
one level (R129). -/
def Obligations.EffectiveAddressLevel : Prop :=
  ∀ (s : State) (w : Word),
    (xOf w = 0 → indOf w = false → eaOf s w = .done (yOf w) s.mb) ∧
    (∀ v, xOf w ≠ 0 → s.fmAt (xOf w) = some v → indOf w = false →
      eaOf s w = .done (BitVec.ofNat 18 ((yOf w).toNat + v.toNat)) s.mb) ∧
    (xOf w ≠ 0 → s.fmAt (xOf w) = none → eaOf s w = .fault (.undefinedRegister (xOf w)) s.mb) ∧
    (∀ k, xOf w = 0 → indOf w = true → memRead s (yOf w) = .error k → eaOf s w = .fault k s.mb) ∧
    (∀ v k, xOf w ≠ 0 → s.fmAt (xOf w) = some v → indOf w = true →
      memRead s (BitVec.ofNat 18 ((yOf w).toNat + v.toNat)) = .error k → eaOf s w = .fault k s.mb)

/-- R127 and R128: an indirect level goes on with the word fetched, which MB then holds; and a chain that has not ended within
2^18 + 1 levels ends at no number of levels, so that the bound loses nothing. -/
def Obligations.IndirectChainUnfolds : Prop :=
  (∀ (s : State) (w : Word) (e : Addr) (w' : Word), indexed s w = .ok e → indOf w = true → memRead s e = .ok w' →
    eaOf s w = eaOf { s with mb := w' } w') ∧
  (∀ (s : State) (w : Word), eaOf s w = .hang → ∀ n, calcEA n s w s.mb = .hang)

/-- R128, R129: of every instruction that runs by its uops, an indirect cycle is a step that changes nothing, and a fault of
EA calculation ends the run before any operand is touched. -/
def Obligations.EffectiveAddressHangsAndFaults : Prop :=
  ∀ (i : Instr) (s : State), i.wf = true → runsGeneric s.config i →
    (eaOf s (encode i) = .hang → exec i s = .next s) ∧
    (∀ k mb, eaOf s (encode i) = .fault k mb →
      exec i s = raise k { s with ir := encode i, ac := acOf (encode i), mb := mb })

/-! ## Memory and slots -/

/-- R60: an operand read. Under the alias the accumulator is the one whose number is the address. -/
def Obligations.OperandRead : Prop :=
  ∀ (s : State) (a : Addr),
    (a.toNat < 16 → (aliasedAc a).toNat = a.toNat) ∧
    (s.config.acAlias = .aliased → a.toNat < 16 →
      (∀ v, s.fmAt (aliasedAc a) = some v → memRead s a = .ok v) ∧
      (s.fmAt (aliasedAc a) = none → memRead s a = .error (.undefinedRegister (aliasedAc a)))) ∧
    ((s.config.acAlias = .separate ∨ 16 ≤ a.toNat) →
      (∀ v, s.memGet a = some v → memRead s a = .ok v) ∧
      (s.memGet a = none → memRead s a = .error (.unmapped a .read)))

/-- R56: a store goes into the covering area, or into a new one-word area, whose allocation alone can fail; the word is then
read back, every other address reads as before, and the slots are untouched. -/
def Obligations.StoreThenLoad : Prop :=
  ∀ (a : Addr) (w : Word) (s : State),
    ((∃ v, s.memGet a = some v) ∨ (drawAlloc s).1 = false →
      ∃ t, setWordAt a w s = .next t ∧ t = { s with mem := t.mem, draws := t.draws, allocScript := t.allocScript } ∧
        t.memGet a = some w ∧ (∀ b, b ≠ a → t.memGet b = s.memGet b) ∧
        (s.memGet a = none → ∃ f, (⟨a.toNat, f, [w]⟩ : Area) ∈ t.mem) ∧
        ((∃ v, s.memGet a = some v) → t.mem.map (fun x => (x.start, x.stop)) = s.mem.map fun x => (x.start, x.stop))) ∧
    (s.memGet a = none → (drawAlloc s).1 = true →
      setWordAt a w s = raise .outOfMemory { s with draws := s.draws + 1, allocScript := s.allocScript.tail })

/-- R61: a write by the block stores and invalidates the slot of its address; under the alias it writes the accumulator and
touches neither memory nor slots. -/
def Obligations.BlockWriteInvalidates : Prop :=
  ∀ (a : Addr) (v : Word) (s t : State), memWrite a v s = .next t →
    (aliasesFm s a = true → t = setAc (aliasedAc a) v s) ∧
    (aliasesFm s a = false →
      t.memGet a = some v ∧ t.slotAt a = .stub ∧ t.fm = s.fm ∧
      ∀ b, b ≠ a → t.memGet b = s.memGet b ∧ t.slotAt b = s.slotAt b)

/-- R71, R310: after a write by the block, the next entry into the address decodes the word written. -/
def Obligations.WrittenWordIsDecodedNext : Prop :=
  ∀ (a : Addr) (v : Word) (s t : State), memWrite a v s = .next t → aliasesFm s a = false → live t →
    step { t with pc := a } = .next { t with pc := a, slots := slotSet t.slots a.toNat (.decoded (dec t.config v)) }

/-- R62, R311: a raw host write stores and leaves the slot, which then still runs its old selection. -/
def Obligations.RawHostWriteLeavesTheSlot : Prop :=
  ∀ (a w : Nat) (s t : State) (r : HostReply), hostStep (.setWordAt a w) s = .next (t, r) →
    t.slots = s.slots ∧ t.memGet (BitVec.ofNat 18 a) = some (BitVec.ofNat 36 w) ∧
    ∀ sel, s.pc.toNat = a → s.slotAt s.pc = .decoded sel → s.started = true → step t = execSel sel t

/-- R35, R61, R71: the host's `write_memory` stores and makes the slot of its address STUB, whatever the slot held, and changes
nothing else; its allocation alone can fail, and the run then ends (log 18). That it never reaches an accumulator is the
model's reading (log 17). -/
def Obligations.HostWriteInvalidates : Prop :=
  ∀ (a : Addr) (w : Word) (s : State), s.status = .running →
    ((∃ v, s.memGet a = some v) ∨ (drawAlloc s).1 = false →
      ∃ t, hostStep (.writeMemory a.toNat w.toNat) s = .next (t, .done) ∧
        t = { s with mem := t.mem, slots := t.slots, draws := t.draws, allocScript := t.allocScript } ∧
        t.memGet a = some w ∧ t.slotAt a = .stub ∧ ∀ b, b ≠ a → t.memGet b = s.memGet b ∧ t.slotAt b = s.slotAt b) ∧
    (s.memGet a = none → (drawAlloc s).1 = true →
      hostStep (.writeMemory a.toNat w.toNat) s =
        raise .outOfMemory { s with draws := s.draws + 1, allocScript := s.allocScript.tail })

/-- 20_memory.md R53, R55: on a memory that keeps the area invariant, the search finds the one area that covers an address,
and the word read is that area's; no word is read where none covers it. `get_word_at` gives back that word, or the sentinel
(`none`), and changes nothing. -/
def Obligations.AreaFoundIsUnique : Prop :=
  (∀ (m : Memory) (a : Nat), m.wf →
    (∀ ar ∈ m, ar.start ≤ a → a < ar.stop → findArea m a = some ar ∧ getWord m a = ar.data[a - ar.start]?) ∧
    ((∀ ar ∈ m, ¬ (ar.start ≤ a ∧ a < ar.stop)) → findArea m a = none ∧ getWord m a = none)) ∧
  ∀ (a : Addr) (s : State), s.status = .running →
    (∀ ar ∈ s.mem, s.mem.wf → ar.start ≤ a.toNat → a.toNat < ar.stop →
      hostStep (.getWordAt a.toNat) s = .next (s, .word ar.data[a.toNat - ar.start]?)) ∧
    ((∀ ar ∈ s.mem, ¬ (ar.start ≤ a.toNat ∧ a.toNat < ar.stop)) →
      hostStep (.getWordAt a.toNat) s = .next (s, .word none))

/-- R57, R58, R73: `add_memory` with an 18-bit address and 36-bit words. That the error of R57 comes before the refusals of R58 is
the model's choice where both hold (log 16). -/
def Obligations.AddMemoryRule : Prop :=
  ∀ (a : Nat) (data : List Nat) (s : State), s.status = .running → a < 2 ^ 18 → (∀ w ∈ data, w < 2 ^ 36) → s.mem.wf →
    (getWord s.mem a ≠ none → hostStep (.addMemory a data) s = .next (s, .duplicate)) ∧
    (getWord s.mem a = none →
      (data = [] ∨ 2 ^ 18 < a + data.length ∨ ∃ b, a ≤ b ∧ b < a + data.length ∧ getWord s.mem b ≠ none) →
      hostStep (.addMemory a data) s = refuse .areaOverlap s) ∧
    (data ≠ [] → a + data.length ≤ 2 ^ 18 → (∀ b, a ≤ b → b < a + data.length → getWord s.mem b = none) →
      ∃ t r, hostStep (.addMemory a data) s = .next (t, r) ∧ t.slots = s.slots ∧ t.fm = s.fm ∧ t.mem.wf ∧
        ((drawAlloc s).1 = true → r = .outOfMemory ∧ t.mem = s.mem) ∧
        ((drawAlloc s).1 = false → r = .done ∧
          (∀ b, b < a ∨ a + data.length ≤ b → getWord t.mem b = getWord s.mem b) ∧
          (∀ k, k < data.length → getWord t.mem (a + k) = data[k]?.map (BitVec.ofNat 36))))

/-- R130 to R133: the four operations of the dispatch table, slot by slot; nothing but the slots changes. -/
def Obligations.SlotMaintenance : Prop :=
  ∀ (a : Addr) (s : State), s.status = .running →
    (∃ t, hostStep (.invalidateWord a.toNat) s = .next (t, .done) ∧ t = { s with slots := t.slots } ∧
      t.slotAt a = .stub ∧ ∀ b, b ≠ a → t.slotAt b = s.slotAt b) ∧
    (∃ t, hostStep (.purePage a.toNat) s = .next (t, .done) ∧ t = { s with slots := t.slots } ∧
      ∀ b : Addr,
        (b.toNat / 1024 = a.toNat / 1024 →
          (∀ w, s.memGet b = some w → t.slotAt b = .decoded (dec s.config w)) ∧ (s.memGet b = none → t.slotAt b = .stub)) ∧
        (b.toNat / 1024 ≠ a.toNat / 1024 → t.slotAt b = s.slotAt b)) ∧
    (∃ t, hostStep (.unpurePage a.toNat) s = .next (t, .done) ∧ t = { s with slots := t.slots } ∧
      ∀ b : Addr,
        (b.toNat / 1024 = a.toNat / 1024 → t.slotAt b = .stub) ∧
        (b.toNat / 1024 ≠ a.toNat / 1024 → t.slotAt b = s.slotAt b)) ∧
    (∃ t, hostStep (.unmappedPage a.toNat) s = .next (t, .done) ∧ t = { s with slots := t.slots } ∧
      ∀ b : Addr,
        (b.toNat / 1024 = a.toNat / 1024 → t.slotAt b = .unmapped) ∧
        (b.toNat / 1024 ≠ a.toNat / 1024 → t.slotAt b = s.slotAt b))

/-- R134, R74, R59: a host address outside 18 bits, a word outside 36 bits and `set_address(a)` with `a ≠ -1` are refused.
That a bad address comes before a bad word, and both before the other checks of `add_memory`, is the model's choice (log 16). -/
def Obligations.HostArgumentsChecked : Prop :=
  ∀ (a w : Nat) (s : State), s.status = .running →
    (2 ^ 18 ≤ a → ∀ op ∈ ([.setWordAt a w, .writeMemory a w, .invalidateWord a, .purePage a, .unpurePage a, .unmappedPage a,
        .getWordAt a, .addMemory a [w]] : List HostOp), hostStep op s = refuse .badAddress s) ∧
    (a < 2 ^ 18 → 2 ^ 36 ≤ w → ∀ op ∈ ([.setWordAt a w, .writeMemory a w, .addMemory a [w]] : List HostOp),
      hostStep op s = refuse .badWord s) ∧
    (∀ data : List Nat, 2 ^ 18 ≤ a → hostStep (.addMemory a data) s = refuse .badAddress s) ∧
    (∀ data : List Nat, a < 2 ^ 18 → (∃ x ∈ data, 2 ^ 36 ≤ x) → hostStep (.addMemory a data) s = refuse .badWord s) ∧
    (∀ z : Int, z ≠ -1 → hostStep (.setAddress z) s = refuse .badAddress s)

/-- R135: `run` sets `Mem`, `PC` and `status`, and no other register; a second one is refused RunTwice. That the memory given
must keep the area invariant is the model's own premise (log 20). -/
def Obligations.RunSetsPcAndMemory : Prop :=
  ∀ (start : Nat) (m : Memory) (s : State), s.status = .running →
    (s.started = false → m.wf →
      hostStep (.run start m) s =
        .next ({ s with mem := m, pc := BitVec.ofNat 18 (start % 2 ^ 18), status := .running, started := true }, .done)) ∧
    (s.started = true → hostStep (.run start m) s = refuse .runTwice s)

/-- "Neither `run` nor any host operation writes `FM`" (70_reset_and_hazards.md R300); nor any other register but PC, which
`run` sets. -/
def Obligations.HostStepWritesNoRegister : Prop :=
  ∀ (op : HostOp) (s t : State) (r : HostReply), hostStep op s = .next (t, r) →
    t.fm = s.fm ∧ t.flags = s.flags ∧ t.ac = s.ac ∧ t.ir = s.ir ∧ t.ar = s.ar ∧ t.br = s.br ∧ t.mq = s.mq ∧ t.ma = s.ma ∧
    t.mb = s.mb ∧ t.status = .running ∧ t.config = s.config ∧
    ((∀ start m, op ≠ .run start m) → t.pc = s.pc ∧ t.started = s.started)

/-- R59: `set_address(-1)` resets the cursor, and `get_next` gives the next word in address order, skipping the gaps, or -1
past the last area. What the cursor holds in between is the model's reading (log 15). -/
def Obligations.IterationInAddressOrder : Prop :=
  ∀ s : State, s.status = .running → s.mem.wf →
    hostStep (.setAddress (-1)) s = .next ({ s with cursor := none }, .done) ∧
    (∀ t w, hostStep .getNext s = .next (t, .word (some w)) →
      ∃ a, t = { s with cursor := some a } ∧ getWord s.mem a = some w ∧ (∀ c, s.cursor = some c → c < a) ∧
        ∀ b, b < a → (∀ c, s.cursor = some c → c < b) → getWord s.mem b = none) ∧
    (∀ t, hostStep .getNext s = .next (t, .word none) →
      t = s ∧ ∀ b, (∀ c, s.cursor = some c → c < b) → getWord s.mem b = none) ∧
    (∃ t w, hostStep .getNext s = .next (t, .word w))

/-! ## The MOVE and MOVN families -/

/-- R161 and R162, MOVE and MOVEI. -/
def Obligations.MoveAndMoveiLoad : Prop :=
  ∀ (f : Basic) (s : State) (e : Addr) (mb : Word), opOf (encode (.move f)) = 0o200 ∧ opOf (encode (.movei f)) = 0o201 ∧
    (eaOf s (encode (.move f)) = .done e mb →
      (∀ v, memRead s e = .ok v →
        exec (.move f) s = .next (onward (setAc f.ac v { entered (.move f) f.ac e mb s with ar := v }))) ∧
      (∀ k, memRead s e = .error k → exec (.move f) s = raise k (entered (.move f) f.ac e mb s))) ∧
    (eaOf s (encode (.movei f)) = .done e mb →
      exec (.movei f) s =
        .next (onward (setAc f.ac (BitVec.ofNat 36 e.toNat) { entered (.movei f) f.ac e mb s with ar := BitVec.ofNat 36 e.toNat })))

/-- R163, MOVEM: at an address that reaches an accumulator or a mapped word, at an unmapped address, and on an accumulator that
holds ⊥. -/
def Obligations.MovemStoresTheAccumulator : Prop :=
  ∀ (f : Basic) (s : State) (e : Addr) (mb : Word), opOf (encode (.movem f)) = 0o202 ∧
    (eaOf s (encode (.movem f)) = .done e mb →
      (∀ v, s.fmAt f.ac = some v → (aliasesFm s e = true ∨ ∃ u, s.memGet e = some u) →
        exec (.movem f) s = .next (onward (afterWrite e v { entered (.movem f) f.ac e mb s with ar := v }))) ∧
      (∀ v, s.fmAt f.ac = some v → aliasesFm s e = false → s.memGet e = none →
        exec (.movem f) s = newAreaOutcome e v { entered (.movem f) f.ac e mb s with ar := v }) ∧
      (s.fmAt f.ac = none → exec (.movem f) s = raise (.undefinedRegister f.ac) (entered (.movem f) f.ac e mb s)))

/-- R164 and R168, MOVES and MOVNS with their gate on: memory is written, and the accumulator too where AC is not 0. -/
def Obligations.MovesAndMovnsInPlace : Prop :=
  ∀ (f : Basic) (s : State) (e : Addr) (mb : Word), opOf (encode (.moves f)) = 0o203 ∧ opOf (encode (.movns f)) = 0o213 ∧
    (s.config.admitModeVariants = true → eaOf s (encode (.moves f)) = .done e mb →
      (∀ v, memRead s e = .ok v →
        exec (.moves f) s =
          .next (onward (setAcNonzero f.ac v (afterWrite e v { entered (.moves f) f.ac e mb s with ar := v })))) ∧
      (∀ k, memRead s e = .error k → exec (.moves f) s = raise k (entered (.moves f) f.ac e mb s))) ∧
    (s.config.admitModeVariants = true → eaOf s (encode (.movns f)) = .done e mb →
      (∀ v r, memRead s e = .ok v → r = BitVec.ofNat 36 (2 ^ 36 - v.toNat) →
        exec (.movns f) s =
          .next (onward (setAcNonzero f.ac r (afterWrite e r (flagsDrawn { entered (.movns f) f.ac e mb s with ar := r }))))) ∧
      (∀ k, memRead s e = .error k → exec (.movns f) s = raise k (entered (.movns f) f.ac e mb s)))

/-- R165 and R166, MOVN, and MOVNI with its gate on. -/
def Obligations.MovnAndMovniLoadTheNegative : Prop :=
  ∀ (f : Basic) (s : State) (e : Addr) (mb : Word), opOf (encode (.movn f)) = 0o210 ∧ opOf (encode (.movni f)) = 0o211 ∧
    (eaOf s (encode (.movn f)) = .done e mb →
      (∀ v r, memRead s e = .ok v → r = BitVec.ofNat 36 (2 ^ 36 - v.toNat) →
        exec (.movn f) s = .next (onward (setAc f.ac r (flagsDrawn { entered (.movn f) f.ac e mb s with ar := r })))) ∧
      (∀ k, memRead s e = .error k → exec (.movn f) s = raise k (entered (.movn f) f.ac e mb s))) ∧
    (s.config.admitModeVariants = true → eaOf s (encode (.movni f)) = .done e mb →
      ∀ r, r = BitVec.ofNat 36 (2 ^ 36 - e.toNat) →
        exec (.movni f) s = .next (onward (setAc f.ac r (flagsDrawn { entered (.movni f) f.ac e mb s with ar := r }))))

/-- R167, MOVNM with its gate on. -/
def Obligations.MovnmStoresTheNegative : Prop :=
  ∀ (f : Basic) (s : State) (e : Addr) (mb : Word), opOf (encode (.movnm f)) = 0o212 ∧
    (s.config.admitModeVariants = true → eaOf s (encode (.movnm f)) = .done e mb →
      (∀ v r, s.fmAt f.ac = some v → r = BitVec.ofNat 36 (2 ^ 36 - v.toNat) →
        (aliasesFm s e = true ∨ ∃ u, s.memGet e = some u) →
        exec (.movnm f) s = .next (onward (afterWrite e r (flagsDrawn { entered (.movnm f) f.ac e mb s with ar := r })))) ∧
      (∀ v r, s.fmAt f.ac = some v → r = BitVec.ofNat 36 (2 ^ 36 - v.toNat) → aliasesFm s e = false → s.memGet e = none →
        exec (.movnm f) s = newAreaOutcome e r (flagsDrawn { entered (.movnm f) f.ac e mb s with ar := r })) ∧
      (s.fmAt f.ac = none → exec (.movnm f) s = raise (.undefinedRegister f.ac) (entered (.movnm f) f.ac e mb s)))

/-! ## The ADD and SUB families -/

/-- R181 and R185, ADD and SUB: the accumulator is read before memory, whose faults come second. -/
def Obligations.AddAndSubToTheAccumulator : Prop :=
  ∀ (f : Basic) (s : State) (e : Addr) (mb : Word), opOf (encode (.add f)) = 0o270 ∧ opOf (encode (.sub f)) = 0o274 ∧
    (eaOf s (encode (.add f)) = .done e mb →
      (∀ u v r, s.fmAt f.ac = some u → memRead s e = .ok v → r = BitVec.ofNat 36 (u.toNat + v.toNat) →
        exec (.add f) s = .next (onward (setAc f.ac r (flagsDrawn { entered (.add f) f.ac e mb s with ar := r, br := v })))) ∧
      (s.fmAt f.ac = none → exec (.add f) s = raise (.undefinedRegister f.ac) (entered (.add f) f.ac e mb s)) ∧
      (∀ u k, s.fmAt f.ac = some u → memRead s e = .error k →
        exec (.add f) s = raise k { entered (.add f) f.ac e mb s with ar := u })) ∧
    (eaOf s (encode (.sub f)) = .done e mb →
      (∀ u v r, s.fmAt f.ac = some u → memRead s e = .ok v → r = BitVec.ofInt 36 ((u.toNat : Int) - v.toNat) →
        exec (.sub f) s = .next (onward (setAc f.ac r (flagsDrawn { entered (.sub f) f.ac e mb s with ar := r, br := v })))) ∧
      (s.fmAt f.ac = none → exec (.sub f) s = raise (.undefinedRegister f.ac) (entered (.sub f) f.ac e mb s)) ∧
      (∀ u k, s.fmAt f.ac = some u → memRead s e = .error k →
        exec (.sub f) s = raise k { entered (.sub f) f.ac e mb s with ar := u }))

/-- R182 and R186, ADDI, and SUBI with its gate on: the immediate is `0,,E`, never negative. -/
def Obligations.AddiAndSubiImmediate : Prop :=
  ∀ (f : Basic) (s : State) (e : Addr) (mb : Word), opOf (encode (.addi f)) = 0o271 ∧ opOf (encode (.subi f)) = 0o275 ∧
    (eaOf s (encode (.addi f)) = .done e mb →
      (∀ u r, s.fmAt f.ac = some u → r = BitVec.ofNat 36 (u.toNat + e.toNat) →
        exec (.addi f) s =
          .next (onward (setAc f.ac r
            (flagsDrawn { entered (.addi f) f.ac e mb s with ar := r, br := BitVec.ofNat 36 e.toNat })))) ∧
      (s.fmAt f.ac = none → exec (.addi f) s = raise (.undefinedRegister f.ac) (entered (.addi f) f.ac e mb s))) ∧
    (s.config.admitModeVariants = true → eaOf s (encode (.subi f)) = .done e mb →
      (∀ u r, s.fmAt f.ac = some u → r = BitVec.ofInt 36 ((u.toNat : Int) - e.toNat) →
        exec (.subi f) s =
          .next (onward (setAc f.ac r
            (flagsDrawn { entered (.subi f) f.ac e mb s with ar := r, br := BitVec.ofNat 36 e.toNat })))) ∧
      (s.fmAt f.ac = none → exec (.subi f) s = raise (.undefinedRegister f.ac) (entered (.subi f) f.ac e mb s)))

/-- R183 and R187, ADDM and SUBM with their gate on: the result goes to memory; SUBM is AC minus memory. -/
def Obligations.AddmAndSubmToMemory : Prop :=
  ∀ (f : Basic) (s : State) (e : Addr) (mb : Word), opOf (encode (.addm f)) = 0o272 ∧ opOf (encode (.subm f)) = 0o276 ∧
    (s.config.admitModeVariants = true → eaOf s (encode (.addm f)) = .done e mb →
      (∀ u v r, s.fmAt f.ac = some u → memRead s e = .ok v → r = BitVec.ofNat 36 (u.toNat + v.toNat) →
        exec (.addm f) s = .next (onward (afterWrite e r (flagsDrawn { entered (.addm f) f.ac e mb s with ar := r, br := v })))) ∧
      (s.fmAt f.ac = none → exec (.addm f) s = raise (.undefinedRegister f.ac) (entered (.addm f) f.ac e mb s)) ∧
      (∀ u k, s.fmAt f.ac = some u → memRead s e = .error k →
        exec (.addm f) s = raise k { entered (.addm f) f.ac e mb s with ar := u })) ∧
    (s.config.admitModeVariants = true → eaOf s (encode (.subm f)) = .done e mb →
      (∀ u v r, s.fmAt f.ac = some u → memRead s e = .ok v → r = BitVec.ofInt 36 ((u.toNat : Int) - v.toNat) →
        exec (.subm f) s = .next (onward (afterWrite e r (flagsDrawn { entered (.subm f) f.ac e mb s with ar := r, br := v })))) ∧
      (s.fmAt f.ac = none → exec (.subm f) s = raise (.undefinedRegister f.ac) (entered (.subm f) f.ac e mb s)) ∧
      (∀ u k, s.fmAt f.ac = some u → memRead s e = .error k →
        exec (.subm f) s = raise k { entered (.subm f) f.ac e mb s with ar := u }))

/-- R184 and R188, ADDB and SUBB with their gate on: the result goes to memory, then to the accumulator. -/
def Obligations.AddbAndSubbToBoth : Prop :=
  ∀ (f : Basic) (s : State) (e : Addr) (mb : Word), opOf (encode (.addb f)) = 0o273 ∧ opOf (encode (.subb f)) = 0o277 ∧
    (s.config.admitModeVariants = true → eaOf s (encode (.addb f)) = .done e mb →
      (∀ u v r, s.fmAt f.ac = some u → memRead s e = .ok v → r = BitVec.ofNat 36 (u.toNat + v.toNat) →
        exec (.addb f) s =
          .next (onward (setAc f.ac r
            (afterWrite e r (flagsDrawn { entered (.addb f) f.ac e mb s with ar := r, br := v }))))) ∧
      (s.fmAt f.ac = none → exec (.addb f) s = raise (.undefinedRegister f.ac) (entered (.addb f) f.ac e mb s)) ∧
      (∀ u k, s.fmAt f.ac = some u → memRead s e = .error k →
        exec (.addb f) s = raise k { entered (.addb f) f.ac e mb s with ar := u })) ∧
    (s.config.admitModeVariants = true → eaOf s (encode (.subb f)) = .done e mb →
      (∀ u v r, s.fmAt f.ac = some u → memRead s e = .ok v → r = BitVec.ofInt 36 ((u.toNat : Int) - v.toNat) →
        exec (.subb f) s =
          .next (onward (setAc f.ac r
            (afterWrite e r (flagsDrawn { entered (.subb f) f.ac e mb s with ar := r, br := v }))))) ∧
      (s.fmAt f.ac = none → exec (.subb f) s = raise (.undefinedRegister f.ac) (entered (.subb f) f.ac e mb s)) ∧
      (∀ u k, s.fmAt f.ac = some u → memRead s e = .error k →
        exec (.subb f) s = raise k { entered (.subb f) f.ac e mb s with ar := u }))

/-! ## JRST, JUMP and SKIP -/

/-- R200: the condition function is the rule's table on the signed value, the sign is bit 35, and the condition of a JUMP or a
SKIP is the low three bits of its opcode. -/
def Obligations.ConditionTable : Prop :=
  ∀ (c : BitVec 3) (v : Word), (condHolds c v = true ↔ test c v.toInt) ∧
    v.toInt = (if v.getLsbD 35 then (v.toNat : Int) - 2 ^ 36 else (v.toNat : Int)) ∧
    ∀ f, (opOf (encode (jumpOf c f))).setWidth 3 = c ∧ (opOf (encode (skipOf c f))).setWidth 3 = c

/-- R201, R202, R123: JRST. By the fast path nothing but IR and PC changes; by the generic path the target is E. -/
def Obligations.JrstJumps : Prop :=
  (∀ (y : Addr) (s : State), encode (.jrstFast y) &&& 0o777777000000 = 0o254000000000 ∧
    exec (.jrstFast y) s = .next { s with ir := encode (.jrstFast y), pc := y }) ∧
  (∀ (ind : Bool) (x : AcNum) (y : Addr) (s : State) (e : Addr) (mb : Word), opOf (encode (.jrst ind x y)) = 0o254 ∧
    acOf (encode (.jrst ind x y)) = 0 ∧
    (eaOf s (encode (.jrst ind x y)) = .done e mb →
      exec (.jrst ind x y) s = .next { entered (.jrst ind x y) 0 e mb s with pc := e }))

/-- R114: on a word of the fast path, the fast path and the generic path leave the same observation, and differ in no more than
the hidden AC, MA and MB. -/
def Obligations.FastPathEquivalence : Prop :=
  ∀ (w : Word) (s : State), opOf w = 0o254 → acOf w = 0 → indOf w = false → xOf w = 0 →
    ∃ t u, execFast w (yOf w) s = .next t ∧ execGeneric w .none .jrst 0 .none s = .next u ∧ SameObs t u ∧
      u = { t with ac := u.ac, ma := u.ma, mb := u.mb }

/-- R204, R210 to R217: the eight JUMP instructions, L always and the others with their gate on. E is computed, and the
accumulator read, whatever the condition. -/
def Obligations.JumpFamily : Prop :=
  ∀ (c : BitVec 3) (f : Basic) (s : State) (e : Addr) (mb : Word), opOf (encode (jumpOf c f)) = BitVec.ofNat 9 (0o320 + c.toNat) ∧
    ((c = 1 ∨ s.config.admitCmpClass = true) → eaOf s (encode (jumpOf c f)) = .done e mb →
      (∀ v, s.fmAt f.ac = some v →
        (test c v.toInt → exec (jumpOf c f) s = .next { entered (jumpOf c f) f.ac e mb s with ar := v, pc := e }) ∧
        (¬ test c v.toInt → exec (jumpOf c f) s = .next (onward { entered (jumpOf c f) f.ac e mb s with ar := v }))) ∧
      (s.fmAt f.ac = none → exec (jumpOf c f) s = raise (.undefinedRegister f.ac) (entered (jumpOf c f) f.ac e mb s)))

/-- R218, R220 to R227: the eight SKIP instructions, L always and the others with their gate on. -/
def Obligations.SkipFamily : Prop :=
  ∀ (c : BitVec 3) (f : Basic) (s : State) (e : Addr) (mb : Word), opOf (encode (skipOf c f)) = BitVec.ofNat 9 (0o330 + c.toNat) ∧
    ((c = 1 ∨ s.config.admitCmpClass = true) → eaOf s (encode (skipOf c f)) = .done e mb →
      (∀ v, memRead s e = .ok v →
        (test c v.toInt →
          exec (skipOf c f) s = .next { setAcNonzero f.ac v { entered (skipOf c f) f.ac e mb s with ar := v } with
            pc := BitVec.ofNat 18 (s.pc.toNat + 2) }) ∧
        (¬ test c v.toInt →
          exec (skipOf c f) s = .next (onward (setAcNonzero f.ac v { entered (skipOf c f) f.ac e mb s with ar := v })))) ∧
      (∀ k, memRead s e = .error k → exec (skipOf c f) s = raise k (entered (skipOf c f) f.ac e mb s)))

/-! ## Monitor calls and refused words -/

/-- R241, of each of the 33 monitor calls, opcodes 040 to 077 and 0104 (R87): after EA calculation the call number decides (R240).
`.LOGOUT` ends the run with Exit (R245), and a number that is none of the four services ends it with MuuoUnimplemented and
that number (R246). For `.OPEN`, `.SUSET` and `.EVAL` the service's reply decides: `Continue` with no host step and no
memory write gives the next state outright, at the PC that the service names; a fault is raised; a service that never
returns leaves the machine stuck (R286). The reply's form and the way a call number is found are the model's (log 8, log 12,
log 26). -/
def Obligations.MonitorCallHandsOff : Prop :=
  (∀ f, (monitorCalls f).map (fun i => (opOf (encode i)).toNat) = List.range' 0o040 32 ++ [0o104]) ∧
  ∀ (f : Basic) (i : Instr) (s : State) (e : Addr) (mb : Word),
    monitorCall f i → eaOf s (encode i) = .done e mb →
    (calledService f i e mb s = some .dotLogout → exec i s = .next { entered i f.ac e mb s with status := .exit }) ∧
    (calledService f i e mb s = none →
      exec i s = raise (.muuoUnimplemented (calledNumber f i e mb s)) (entered i f.ac e mb s)) ∧
    ∀ (v : ItsService) (rest : List ServiceReply), calledService f i e mb s = some v → v ≠ .dotLogout →
    (∀ eff, s.serviceScript = .cont eff :: rest →
      exec i s = serviceContinue eff { entered i f.ac e mb s with serviceScript := rest, draws := s.draws + 1 }) ∧
    (∀ eff, s.serviceScript = .cont eff :: rest → eff.host = [] → eff.mem = [] →
      exec i s = .next
        { entered i f.ac e mb s with
          serviceScript := rest, draws := s.draws + 1, fm := (serviceFm eff.fm s).fm, flags := eff.flags.getD s.flags, pc := eff.pc }) ∧
    (s.serviceScript = .fault .outOfMemory :: rest →
      exec i s = raise .outOfMemory { entered i f.ac e mb s with serviceScript := rest, draws := s.draws + 1 }) ∧
    (∀ a acc, s.serviceScript = .fault (.unmapped a acc) :: rest →
      exec i s = raise (.unmapped a acc) { entered i f.ac e mb s with serviceScript := rest, draws := s.draws + 1 }) ∧
    (s.serviceScript = .fault .unimplemented :: rest →
      exec i s = raise (.muuoUnimplemented (calledNumber f i e mb s))
        { entered i f.ac e mb s with serviceScript := rest, draws := s.draws + 1 }) ∧
    (s.serviceScript = .noReturn :: rest → exec i s = .fault (.stuck (entered i f.ac e mb s)))

/-- R240: what `Continue(S')` may change. With no host step inside the service, only PC, FM, flags, memory and the slots of the
addresses it wrote; each of those slots is STUB. The order of a reply's parts is the model's (log 19). -/
def Obligations.ServiceChangesOnlyWhatItMay : Prop :=
  ∀ (eff : ServiceEffect) (s t : State), serviceContinue eff s = .next t → eff.host = [] →
    t.pc = eff.pc ∧
    t = { s with pc := t.pc, fm := t.fm, flags := t.flags, mem := t.mem, slots := t.slots, draws := t.draws, allocScript := t.allocScript } ∧
    (eff.flags = none → t.flags = s.flags) ∧
    (∀ a, (∀ p ∈ eff.mem, p.1 ≠ a) → t.memGet a = s.memGet a ∧ t.slotAt a = s.slotAt a) ∧
    (∀ p ∈ eff.mem, aliasesFm s p.1 = false → t.slotAt p.1 = .stub) ∧
    (∀ i, (∀ p ∈ eff.fm, p.1 ≠ i) → (∀ p ∈ eff.mem, aliasesFm s p.1 = false) → t.fmAt i = s.fmAt i)

/-- R251 to R258: every word of the IO format is refused on entry, by its function: FN 1, 3, 4 and 5 (DATAI, DATAO, CONO, CONI)
as IoUnspecified, FN 0, 2, 6 and 7 (BLKI, BLKO, CONSZ, CONSO) as Unlisted. DEV is ignored and no effective address is
computed. -/
def Obligations.IoWordsRefused : Prop :=
  ∀ (f : IoFields) (s : State) (c : Config),
    (∀ w, classOf w = 7 → fnOf w ∈ [1, 3, 4, 5] → dec c w = .refuse w .ioUnspecified) ∧
    (∀ w, classOf w = 7 → fnOf w ∈ [0, 2, 6, 7] → dec c w = .refuse w .unlisted) ∧
    (∀ i ∈ [Instr.datai f, .datao f, .cono f, .coni f],
      exec i s = .refused (.declined (.instr .ioUnspecified) { s with ir := encode i, status := .refused (.instr .ioUnspecified) })) ∧
    (∀ i ∈ [Instr.blki f, .blko f, .consz f, .conso f],
      exec i s = .refused (.declined (.instr .unlisted) { s with ir := encode i, status := .refused (.instr .unlisted) })) ∧
    [fnOf (encode (.blki f)), fnOf (encode (.datai f)), fnOf (encode (.blko f)), fnOf (encode (.datao f)),
      fnOf (encode (.cono f)), fnOf (encode (.coni f)), fnOf (encode (.consz f)), fnOf (encode (.conso f))] = [0, 1, 2, 3, 4, 5, 6, 7]

/-- R203, R247, R250, R259, R260: JRST with AC not 0, EXCH, XCTRI, XCTR and every unlisted word are refused on entry, each for
its reason; the opcodes are those of R87. -/
def Obligations.UnspecifiedWordsRefused : Prop :=
  ∀ (f : Basic) (w : Word) (s : State),
    (opOf (encode (.exch f)) = 0o250 ∧ opOf (encode (.xctri f)) = 0o102 ∧ opOf (encode (.xctr f)) = 0o103 ∧
      opOf (encode (.jrstAc f)) = 0o254 ∧ acOf (encode (.jrstAc f)) = f.ac ∧ encode (.unlisted w) = w) ∧
    exec (.jrstAc f) s =
      .refused (.declined (.instr .jrstAcNonzero)
        { s with ir := encode (.jrstAc f), status := .refused (.instr .jrstAcNonzero) }) ∧
    exec (.exch f) s =
      .refused (.declined (.instr .exchUnspecified)
        { s with ir := encode (.exch f), status := .refused (.instr .exchUnspecified) }) ∧
    exec (.xctri f) s =
      .refused (.declined (.instr .xctrUnspecified)
        { s with ir := encode (.xctri f), status := .refused (.instr .xctrUnspecified) }) ∧
    exec (.xctr f) s =
      .refused (.declined (.instr .xctrUnspecified)
        { s with ir := encode (.xctr f), status := .refused (.instr .xctrUnspecified) }) ∧
    exec (.unlisted w) s =
      .refused (.declined (.instr .unlisted) { s with ir := w, status := .refused (.instr .unlisted) })

/-- 30_encoding.md R86, R111: a gated instruction with its gate off is refused NotAdmitted, before any effective address. -/
def Obligations.GatedInstructionsRefused : Prop :=
  ∀ (f : Basic) (i : Instr) (s : State),
    (s.config.admitModeVariants = false → modeVariant f i →
      exec i s = .refused (.declined (.instr .notAdmitted) { s with ir := encode i, status := .refused (.instr .notAdmitted) })) ∧
    (∀ c, s.config.admitCmpClass = false → c ≠ 1 → (i = jumpOf c f ∨ i = skipOf c f) →
      exec i s = .refused (.declined (.instr .notAdmitted) { s with ir := encode i, status := .refused (.instr .notAdmitted) }))

/-! ## Frames -/

/-- The frame of the instructions whose result goes to `FM[AC]` alone (MOVE, MOVEI, MOVN, MOVNI, ADD, ADDI, SUB, SUBI): every
other accumulator, all of memory and every slot as before, and `flags` where the instruction does not draw them. -/
def Obligations.AccumulatorFrame : Prop :=
  ∀ (f : Basic) (i : Instr) (s t : State), toAccumulator f i → exec i s = .next t →
    (∀ j, j ≠ f.ac → t.fmAt j = s.fmAt j) ∧ (∀ a, t.memGet a = s.memGet a) ∧ (∀ a, t.slotAt a = s.slotAt a) ∧
    (¬ drawsFlags f i → t.flags = s.flags) ∧ t.mq = s.mq ∧ t.status = s.status ∧ t.cursor = s.cursor ∧ t.config = s.config

/-- The frame of the instructions that write memory (MOVEM, MOVES, MOVNM, MOVNS, ADDM, ADDB, SUBM, SUBB): outside the word at E
memory and slots are as before; at E too where E reaches an accumulator; and the accumulators as before but `FM[AC]`, and
the one that E reaches. MOVEM, MOVNM, ADDM and SUBM do not write `FM[AC]`, nor do MOVES and MOVNS with AC = 0. -/
def Obligations.StoreFrame : Prop :=
  ∀ (f : Basic) (i : Instr) (s t : State) (e : Addr) (mb : Word), toMemory f i → exec i s = .next t →
    eaOf s (encode i) = .done e mb →
    (∀ a, a ≠ e → t.memGet a = s.memGet a ∧ t.slotAt a = s.slotAt a) ∧
    (aliasesFm s e = true → t.memGet e = s.memGet e ∧ t.slotAt e = s.slotAt e) ∧
    (∀ j, j ≠ f.ac → (aliasesFm s e = true → j ≠ aliasedAc e) → t.fmAt j = s.fmAt j) ∧
    ((i ∈ [.movem f, .movnm f, .addm f, .subm f] ∨ (i ∈ [.moves f, .movns f] ∧ f.ac = 0)) →
      ∀ j, (aliasesFm s e = true → j ≠ aliasedAc e) → t.fmAt j = s.fmAt j) ∧
    (¬ drawsFlags f i → t.flags = s.flags) ∧ t.mq = s.mq ∧ t.status = s.status ∧ t.cursor = s.cursor ∧ t.config = s.config

/-- The frame of the JRST, JUMP and SKIP families: no memory, no slot, no flag; no accumulator but `FM[AC]` of a SKIP with
AC not 0. -/
def Obligations.JumpSkipFrame : Prop :=
  ∀ (i : Instr) (s t : State), exec i s = .next t →
    (∀ c f, (i = jumpOf c f ∨ i = skipOf c f) → (∀ a, t.memGet a = s.memGet a) ∧ (∀ a, t.slotAt a = s.slotAt a) ∧
      t.flags = s.flags ∧ t.mq = s.mq ∧ t.status = s.status ∧ (i = jumpOf c f → t.fm = s.fm) ∧
      (∀ j, (j ≠ f.ac ∨ f.ac = 0) → t.fmAt j = s.fmAt j)) ∧
    (∀ ind x y, (i = .jrst ind x y ∨ i = .jrstFast y) → (∀ a, t.memGet a = s.memGet a) ∧ (∀ a, t.slotAt a = s.slotAt a) ∧
      t.flags = s.flags ∧ t.mq = s.mq ∧ t.status = s.status ∧ t.fm = s.fm)

/-! ## Rules of the whole machine -/

/-- 70_reset_and_hazards.md R300: what the spec gives the state at the start (10_state.md R33, R34, 20_memory.md R54), PC without a
value until `run` (R32; `started`, log 4) and the cursor before the first word (log 15). `State.resetUnwritten` has the ⊥ of
R32 in every accumulator, and the read of one faults; `State.reset` is the same state but for the accumulators, which hold
the 0 that is the model's choice (log 3), so that no read faults there. -/
def Obligations.ResetState : Prop :=
  (∀ a, State.reset.slotAt a = .stub) ∧ State.reset.mem = [] ∧ State.reset.status = .running ∧ State.reset.started = false ∧
  State.reset.cursor = none ∧ State.resetUnwritten = { State.reset with fm := State.resetUnwritten.fm } ∧
  (∀ i, State.resetUnwritten.fmAt i = none ∧ readFm State.resetUnwritten i = .error (.undefinedRegister i)) ∧
  ∀ i, readFm State.reset i = .ok 0

/-- The invariants hold at reset, with the accumulators at the model's 0 and at the ⊥ of R32. -/
def Obligations.ResetKeepsInvariants : Prop :=
  (State.reset.Wf ∧ State.reset.Lockstep) ∧ State.resetUnwritten.Wf ∧ State.resetUnwritten.Lockstep

/-- Every step, and every host step, keeps memory's area invariant (20_memory.md R53) and the canonical form of the slots,
from every state that has them. -/
def Obligations.StepKeepsWellFormed : Prop :=
  (∀ s t : State, s.Wf → step s = .next t → t.Wf) ∧
  (∀ (op : HostOp) (s t : State) (r : HostReply), s.Wf → hostStep op s = .next (t, r) → t.Wf)

/-- 10_state.md R22: every step keeps the lockstep of slots and memory, from every state that has it. The premise is asked of a step
that enters a monitor call, whose service could let the host write memory without invalidation. -/
def Obligations.StepKeepsLockstep : Prop :=
  ∀ s t : State, s.Lockstep →
    (∀ w f e mb, s.slotAt s.pc = .decoded (dec s.config w) → monitorCall f (decode w) → eaOf s w = .done e mb →
      (replyTo f (decode w) e mb s).keepsLockstep = true) →
    step s = .next t → t.Lockstep

/-- R22, R57, R61, R130 to R133, R302: every host operation but the raw `set_word_at` and `run` keeps the lockstep. -/
def Obligations.HostStepKeepsLockstep : Prop :=
  ∀ (op : HostOp) (s t : State) (r : HostReply), s.Lockstep → (∀ a w, op ≠ .setWordAt a w) → (∀ start m, op ≠ .run start m) →
    hostStep op s = .next (t, r) → t.Lockstep

/-- 60_exceptions.md R270, R275, R277: outside the monitor calls, a fault leaves PC, FM, memory, slots and everything else as they
were, with the terminal status set: nothing but IR and AC (R126), the other scratch registers, `flags` and the draws of the
faulting step has changed. -/
def Obligations.FaultIsPrecise : Prop :=
  ∀ (i : Instr) (s t : State) (k : FaultKind), (∀ f, ¬ monitorCall f i) → exec i s = .fault (.raised k t) →
    t = { s with
      ir := encode i, ac := acOf (encode i), ar := t.ar, br := t.br, ma := t.ma, mb := t.mb, flags := t.flags,
      draws := t.draws, allocScript := t.allocScript, status := .fault k }

/-- 60_exceptions.md R274: which instruction can raise which fault, by the uops of its selection. EA calculation raises
UndefinedRegister and Unmapped reads; the read of `FM[AC]` is that of RD_AC, RD_AC_MEM and RD_AC_IMM; the operand read is that
of RD_MEM and RD_AC_MEM; OutOfMemory is that of WB_MEM, WB_BOTH and WB_SELF. A refused word and the fast path raise none. -/
def Obligations.WhichFaults : Prop :=
  ∀ (i : Instr) (s : State) (x : Fault), i.wf = true → (∀ f, ¬ monitorCall f i) → exec i s = .fault x →
    ∃ rd op cond wb, dec s.config (encode i) = .generic (encode i) rd op cond wb ∧
      ((∃ mb k t, eaOf s (encode i) = .fault k mb ∧ x = .raised k t ∧
          ((∃ j, k = .undefinedRegister j ∧ s.fmAt j = none) ∨ ∃ a, k = .unmapped a .read ∧ s.memGet a = none)) ∨
       (∃ e mb t, eaOf s (encode i) = .done e mb ∧
         ((rd ∈ [Rd.ac, .acMem, .acImm] ∧ x = .raised (.undefinedRegister (acOf (encode i))) t ∧
            s.fmAt (acOf (encode i)) = none) ∨
          (rd ∈ [Rd.mem, .acMem] ∧ ∃ k, x = .raised k t ∧ memRead s e = .error k) ∨
          (wb ∈ [Wb.mem, .both, .self] ∧ x = .raised .outOfMemory t ∧ s.memGet e = none ∧ aliasesFm s e = false))))

/-- 60_exceptions.md R272: only a monitor call ends a run normally, and only the one that is `.LOGOUT` (R245); every other
instruction that gives a next state leaves the status Running. -/
def Obligations.ExitOnlyByMonitorCall : Prop :=
  ∀ (i : Instr) (s t : State), s.status = .running → exec i s = .next t →
    t.status = .running ∨
    (t.status = .exit ∧ ∃ f e mb, monitorCall f i ∧ eaOf s (encode i) = .done e mb ∧ calledService f i e mb s = some .dotLogout)

/-- 10_state.md R28: outside the monitor calls, only the instructions whose rule says so write `flags`; and R29: no instruction
writes MQ; the parameters of R8 stay. -/
def Obligations.FlagsAndMqUntouched : Prop :=
  ∀ (i : Instr) (s t : State), exec i s = .next t →
    t.mq = s.mq ∧ t.config = s.config ∧ ((∀ f, ¬ monitorCall f i) → (∀ f, ¬ drawsFlags f i) → t.flags = s.flags)

/-- 10_state.md R28, R30, R39: `flags`, `AC` and the scratch registers are hidden. Two states that differ in them alone give
outcomes that differ in them alone, whatever the instruction, and the same of a step at any slot that `DEC` gives; so no run
ever shows them, since a claim reads none of them. A monitor call, whose service is given the whole state (R240), is taken to
be the same call with the same reply in both (`calledAlike`): what is laid down in the tables and the script is such. -/
def Obligations.HiddenRegistersDoNotShow : Prop :=
  ∀ s s' : State, SameButHidden s s' →
    (∀ i : Instr, calledAlike i s s' → OutcomesRelate SameButHidden (exec i s) (exec i s')) ∧
    ((∀ sel, s.slotAt s.pc = .decoded sel → dec s.config sel.word = sel ∧ calledAlike (decode sel.word) s s') →
      OutcomesRelate SameButHidden (step s) (step s'))

/-- 60_exceptions.md R271: in a running machine every refusal of an instruction has one of the rule's reasons and keeps a state
with that terminal status; outside the monitor calls it is the decoder's, and nothing but IR and the status has changed
(R124). -/
def Obligations.RefusalKeepsTheState : Prop :=
  ∀ (i : Instr) (s : State) (r : Refusal), s.status = .running → exec i s = .refused r →
    (∃ k t, r = .declined k t ∧ t.status = .refused k) ∧
    ((∀ f, ¬ monitorCall f i) → ∃ k, r = .declined (.instr k) { s with ir := encode i, status := .refused (.instr k) })
end

