-- ==== Sys2Proof/Laws/Encoding.lean ====
section
/-! SUPPORT. The fields of an assembled word, one lemma each, and a word assembled again from its fields: from these follows
every fact about encoding and decoding. -/

namespace Sys2Proof

open Machine

/-! ## Basic format -/

@[simp] theorem opOf_assemble (op : BitVec 9) (f : Basic) : opOf (assemble op f) = op := by
  ext i hi
  simp [opOf, assemble]
  grind

@[simp] theorem acOf_assemble (op : BitVec 9) (f : Basic) : acOf (assemble op f) = f.ac := by
  ext i hi
  simp [acOf, assemble]
  grind

@[simp] theorem xOf_assemble (op : BitVec 9) (f : Basic) : xOf (assemble op f) = f.x := by
  ext i hi
  simp [xOf, assemble]
  grind

@[simp] theorem yOf_assemble (op : BitVec 9) (f : Basic) : yOf (assemble op f) = f.y := by
  ext i hi
  simp [yOf, assemble]
  grind

@[simp] theorem condOf_assemble (op : BitVec 9) (f : Basic) : condOf (assemble op f) = op.extractLsb' 0 3 := by
  ext i hi
  simp [condOf, assemble]
  grind

@[simp] theorem classOf_assemble (op : BitVec 9) (f : Basic) : classOf (assemble op f) = op.extractLsb' 6 3 := by
  ext i hi
  simp [classOf, assemble]
  grind

@[simp] theorem indOf_assemble (op : BitVec 9) (f : Basic) : indOf (assemble op f) = f.ind := by
  unfold indOf assemble
  simp only [BitVec.getLsbD_append]
  simp

@[simp] theorem basicOf_assemble (op : BitVec 9) (f : Basic) : basicOf (assemble op f) = f := by
  simp [basicOf]

/-- A word is what its fields assemble to. -/
theorem assemble_fields (w : Word) : assemble (opOf w) (basicOf w) = w := by
  apply BitVec.eq_of_getLsbD_eq
  intro k hk
  unfold assemble
  simp only [BitVec.getLsbD_append]
  simp only [opOf, basicOf, acOf, indOf, xOf, yOf, BitVec.getLsbD_extractLsb', BitVec.getLsbD_ofBool]
  grind

/-- The bits of the opcode mask (0777000000000) leave the opcode alone. -/
theorem assemble_and_opMask (op : BitVec 9) (f : Basic) : assemble op f &&& 0o777000000000 = op ++ 0#27 := by
  have hm : (0o777000000000 : Word) = BitVec.allOnes 9 ++ 0#27 := by decide
  have ha : assemble op f = op ++ ((f.ac ++ BitVec.ofBool f.ind ++ f.x ++ f.y : BitVec 27)) := by
    apply BitVec.eq_of_getLsbD_eq
    intro k hk
    unfold assemble
    simp only [BitVec.getLsbD_append]
    grind
  rw [hm, ha, BitVec.and_append, BitVec.and_allOnes, BitVec.and_zero]

/-! ## IO format -/

@[simp] theorem classOf_assembleIo (fn : BitVec 3) (f : IoFields) : classOf (assembleIo fn f) = 7 := by
  ext i hi
  simp [classOf, assembleIo]
  grind

@[simp] theorem fnOf_assembleIo (fn : BitVec 3) (f : IoFields) : fnOf (assembleIo fn f) = fn := by
  ext i hi
  simp [fnOf, assembleIo]
  grind

@[simp] theorem ioOf_assembleIo (fn : BitVec 3) (f : IoFields) : ioOf (assembleIo fn f) = f := by
  obtain ⟨d, i, x, y⟩ := f
  simp only [ioOf, IoFields.mk.injEq]
  refine ⟨?_, ?_, ?_, ?_⟩
  · ext k hk
    simp [devOf, assembleIo]
    grind
  · unfold indOf assembleIo
    simp only [BitVec.getLsbD_append]
    simp
  · ext k hk
    simp [xOf, assembleIo]
    grind
  · ext k hk
    simp [yOf, assembleIo]
    grind

/-- A word of the IO format is what its fields assemble to. -/
theorem assembleIo_fields (w : Word) (h : classOf w = 7) : assembleIo (fnOf w) (ioOf w) = w := by
  apply BitVec.eq_of_getLsbD_eq
  intro k hk
  unfold assembleIo
  simp only [← h, BitVec.getLsbD_append]
  simp only [fnOf, ioOf, devOf, classOf, indOf, xOf, yOf, BitVec.getLsbD_extractLsb', BitVec.getLsbD_ofBool]
  grind

/-- The mask of the IO rows (0700340000000) leaves the class and the function. -/
theorem assembleIo_and_fnMask (fn : BitVec 3) (f : IoFields) :
    assembleIo fn f &&& 0o700340000000 = (7 : BitVec 3) ++ 0#7 ++ fn ++ 0#23 := by
  have hm : (0o700340000000 : Word) = BitVec.allOnes 3 ++ 0#7 ++ BitVec.allOnes 3 ++ 0#23 := by decide
  have ha : assembleIo fn f = (7 : BitVec 3) ++ f.dev ++ fn ++ ((BitVec.ofBool f.ind ++ f.x ++ f.y : BitVec 23)) := by
    apply BitVec.eq_of_getLsbD_eq
    intro k hk
    unfold assembleIo
    simp only [BitVec.getLsbD_append]
    grind
  rw [hm, ha, BitVec.and_append, BitVec.and_append, BitVec.and_append]
  simp only [BitVec.and_allOnes, BitVec.and_zero]

/-! ## The opcode from the word's class -/

/-- The class bits are the top bits of the opcode. -/
theorem classOf_eq_opOf (w : Word) : classOf w = (opOf w).extractLsb' 6 3 := by
  conv_lhs => rw [← assemble_fields w]
  simp

/-- The condition bits are the low bits of the opcode. -/
theorem condOf_eq_opOf (w : Word) : condOf w = (opOf w).extractLsb' 0 3 := by
  conv_lhs => rw [← assemble_fields w]
  simp

end Sys2Proof
end

