-- ==== Sys2Proof/Laws/Memory.lean ====
section
/-! SUPPORT. The laws of the area model and of the slot table: a read after a write gives the value written, a write leaves
every other address alone, and every operation keeps the canonical form. -/

namespace Sys2Proof.Machine

/-! ## Areas: reading -/

theorem Area.covers_iff (ar : Area) (a : Nat) : ar.covers a = true ↔ ar.start ≤ a ∧ a < ar.stop := by
  simp [Area.covers]

@[simp] theorem getWord_nil (a : Nat) : getWord [] a = none := rfl

theorem getWord_cons (ar : Area) (m : Memory) (a : Nat) :
    getWord (ar :: m) a = if ar.covers a then ar.data[a - ar.start]? else getWord m a := by
  by_cases h : ar.covers a <;> simp [getWord, findArea, h]

/-- A covered address has a word. -/
theorem Area.data_of_covers {ar : Area} {a : Nat} (h : ar.covers a) : ∃ w, ar.data[a - ar.start]? = some w := by
  rw [Area.covers_iff, Area.stop] at h
  exact ⟨ar.data[a - ar.start]'(by omega), by simp⟩

theorem getWord_eq_none {m : Memory} {a : Nat} : getWord m a = none ↔ ∀ ar ∈ m, ar.covers a = false := by
  induction m with
  | nil => simp
  | cons ar m ih =>
    rw [getWord_cons]
    by_cases h : ar.covers a
    · obtain ⟨w, hw⟩ := Area.data_of_covers h
      simp [h, hw]
    · simp [h, ih]

/-! ## Areas: writing -/

theorem Area.covers_set (ar : Area) (i : Nat) (w : Word) (a : Nat) :
    ({ ar with data := ar.data.set i w } : Area).covers a = ar.covers a := by
  rw [Bool.eq_iff_iff, Area.covers_iff, Area.covers_iff]
  simp [Area.stop]

theorem getWord_putWord_same {m : Memory} {a : Nat} {v : Word} (w : Word) (h : getWord m a = some v) :
    getWord (putWord m a w) a = some w := by
  induction m with
  | nil => simp at h
  | cons ar m ih =>
    rw [getWord_cons] at h
    by_cases hc : ar.covers a
    · rw [putWord, if_pos hc, getWord_cons, Area.covers_set, if_pos hc]
      rw [Area.covers_iff, Area.stop] at hc
      simp [show a - ar.start < ar.data.length by omega]
    · simp only [hc, Bool.false_eq_true, if_false] at h
      simp [putWord, hc, getWord_cons, ih h]

theorem getWord_putWord_ne (m : Memory) {a b : Nat} (w : Word) (h : b ≠ a) :
    getWord (putWord m a w) b = getWord m b := by
  induction m with
  | nil => rfl
  | cons ar m ih =>
    by_cases hc : ar.covers a
    · rw [putWord, if_pos hc, getWord_cons, getWord_cons, Area.covers_set]
      by_cases hb : ar.covers b
      · rw [Area.covers_iff] at hc hb
        simp [List.getElem?_set_ne (show a - ar.start ≠ b - ar.start by omega)]
      · simp [hb]
    · rw [putWord, if_neg hc, getWord_cons, getWord_cons, ih]

theorem getWord_insertArea_of_not_covers (ar : Area) (m : Memory) {b : Nat} (h : ar.covers b = false) :
    getWord (insertArea ar m) b = getWord m b := by
  induction m with
  | nil => simp [insertArea, getWord_cons, h]
  | cons br m ih =>
    by_cases hlt : ar.start < br.start
    · simp [insertArea, hlt, getWord_cons, h]
    · simp [insertArea, hlt, getWord_cons, ih]

theorem getWord_insertArea_of_covers (ar : Area) {m : Memory} {b : Nat} (h : ar.covers b) (hn : getWord m b = none) :
    getWord (insertArea ar m) b = ar.data[b - ar.start]? := by
  induction m with
  | nil => simp [insertArea, getWord_cons, h]
  | cons br m ih =>
    have hall := getWord_eq_none.mp hn
    have hbr : br.covers b = false := hall br (by simp)
    have hm : getWord m b = none := getWord_eq_none.mpr fun x hx => hall x (by simp [hx])
    by_cases hlt : ar.start < br.start
    · simp [insertArea, hlt, getWord_cons, h]
    · simp [insertArea, hlt, getWord_cons, hbr, ih hm]

/-- A new one-word area at an unmapped address: the word there, and every other address as before (R56). -/
theorem getWord_insertArea_single {m : Memory} {a : Nat} (f : Nat) (w : Word) (hn : getWord m a = none) (b : Nat) :
    getWord (insertArea ⟨a, f, [w]⟩ m) b = if b = a then some w else getWord m b := by
  by_cases hb : b = a
  · subst hb
    have hc : (⟨b, f, [w]⟩ : Area).covers b := by simp [Area.covers, Area.stop]
    simp [getWord_insertArea_of_covers _ hc hn]
  · have hc : (⟨a, f, [w]⟩ : Area).covers b = false := by
      rw [Bool.eq_false_iff, ne_eq, Area.covers_iff]; simp [Area.stop]; omega
    simp [getWord_insertArea_of_not_covers _ _ hc, hb]

/-! ## Areas: the canonical form -/

theorem putWord_mem {m : Memory} {a : Nat} {w : Word} {x : Area} (h : x ∈ putWord m a w) :
    ∃ y ∈ m, x.start = y.start ∧ x.stop = y.stop ∧ (y.data ≠ [] → x.data ≠ []) := by
  induction m with
  | nil => simp [putWord] at h
  | cons ar m ih =>
    by_cases hc : ar.covers a
    · rw [putWord, if_pos hc] at h
      rcases List.mem_cons.mp h with rfl | h
      · exact ⟨ar, by simp, rfl, by simp [Area.stop], by simp⟩
      · exact ⟨x, by simp [h], rfl, rfl, id⟩
    · rw [putWord, if_neg hc] at h
      rcases List.mem_cons.mp h with rfl | h
      · exact ⟨x, by simp, rfl, rfl, id⟩
      · obtain ⟨y, hy, h1⟩ := ih h
        exact ⟨y, by simp [hy], h1⟩

theorem putWord_wf {m : Memory} (a : Nat) (w : Word) (h : m.wf) : (putWord m a w).wf := by
  constructor
  · have hp := h.1
    clear h
    induction m with
    | nil => simp [putWord]
    | cons ar m ih =>
      rw [List.pairwise_cons] at hp
      by_cases hc : ar.covers a
      · rw [putWord, if_pos hc, List.pairwise_cons]
        exact ⟨fun b hb => by simpa [Area.stop] using hp.1 b hb, hp.2⟩
      · rw [putWord, if_neg hc, List.pairwise_cons]
        refine ⟨fun b hb => ?_, ih hp.2⟩
        obtain ⟨y, hy, hs, -, -⟩ := putWord_mem hb
        rw [hs]; exact hp.1 y hy
  · intro x hx
    obtain ⟨y, hy, -, hs, hd⟩ := putWord_mem hx
    exact ⟨hd (h.2 y hy).1, hs ▸ (h.2 y hy).2⟩

theorem mem_insertArea {ar x : Area} {m : Memory} : x ∈ insertArea ar m ↔ x = ar ∨ x ∈ m := by
  induction m with
  | nil => simp [insertArea]
  | cons br m ih =>
    by_cases h : ar.start < br.start <;> simp [insertArea, h, ih, or_left_comm]

/-- Insertion of an area that meets no other keeps the invariant of R53. -/
theorem insertArea_wf {ar : Area} {m : Memory} (h : m.wf) (hd : ar.data ≠ []) (hs : ar.stop ≤ addressCount)
    (ho : overlapsArea m ar.start ar.stop = false) : (insertArea ar m).wf := by
  have hlen : ar.start < ar.stop := by
    have := List.length_pos_of_ne_nil hd
    simp only [Area.stop]; omega
  have hno : ∀ b ∈ m, ar.stop ≤ b.start ∨ b.stop ≤ ar.start := by
    intro b hb
    have := List.any_eq_false.mp ho b hb
    simp at this
    omega
  constructor
  · have hp := h.1
    have hne : ∀ b ∈ m, b.start < b.stop := fun b hb => by
      have := List.length_pos_of_ne_nil (h.2 b hb).1
      simp only [Area.stop]; omega
    clear h ho
    induction m with
    | nil => simp [insertArea]
    | cons br m ih =>
      rw [List.pairwise_cons] at hp
      have hbr := hno br (by simp)
      by_cases hlt : ar.start < br.start
      · rw [insertArea, if_pos hlt, List.pairwise_cons, List.pairwise_cons]
        have h0 : ar.stop ≤ br.start := by
          have := hne br (by simp)
          omega
        refine ⟨fun b hb => ?_, hp⟩
        rcases List.mem_cons.mp hb with rfl | hb
        · exact h0
        · have := hp.1 b hb
          have := hne br (by simp)
          omega
      · rw [insertArea, if_neg hlt, List.pairwise_cons]
        refine ⟨fun b hb => ?_, ih (fun b hb => hno b (by simp [hb])) hp.2 fun b hb => hne b (by simp [hb])⟩
        rcases mem_insertArea.mp hb with rfl | hb
        · omega
        · exact hp.1 b hb
  · intro x hx
    rcases mem_insertArea.mp hx with rfl | hx
    · exact ⟨hd, hs⟩
    · exact h.2 x hx

theorem overlapsArea_single_of_none {m : Memory} {a : Nat} (h : getWord m a = none) :
    overlapsArea m a (a + 1) = false := by
  rw [overlapsArea, List.any_eq_false]
  intro ar har
  have := getWord_eq_none.mp h ar har
  rw [Bool.eq_false_iff, ne_eq, Area.covers_iff] at this
  simp
  omega

/-- An address that memory maps is below the number of addresses. -/
theorem lt_of_getWord {m : Memory} {a : Nat} {w : Word} (h : m.wf) (hg : getWord m a = some w) : a < addressCount := by
  by_contra hlt
  have : getWord m a = none := getWord_eq_none.mpr fun ar har => by
    rw [Bool.eq_false_iff, ne_eq, Area.covers_iff]
    have := (h.2 ar har).2
    omega
  simp [this] at hg

/-! ## Slots: reading after writing -/

@[simp] theorem slotGet_nil (a : Nat) : slotGet [] a = .stub := rfl

theorem slotGet_erase (t : SlotTable) (a b : Nat) :
    slotGet (slotErase t a) b = if b = a then .stub else slotGet t b := by
  induction t with
  | nil => simp [slotErase]
  | cons e t ih =>
    obtain ⟨k, v⟩ := e
    rw [slotErase] at ih
    by_cases hk : k = a
    · subst hk
      simp only [slotErase, List.filter_cons, bne_self_eq_false, Bool.false_eq_true, if_false, ih, slotGet]
      by_cases hb : b = k
      · simp [hb]
      · simp [hb, Ne.symm hb]
    · simp only [slotErase, List.filter_cons, bne_iff_ne, ne_eq, hk, not_false_eq_true, if_true, slotGet, ih]
      by_cases hb : k = b
      · subst hb; simp [hk]
      · simp [hb]

theorem slotGet_insert (t : SlotTable) (a : Nat) (v : Slot) (b : Nat) :
    slotGet (slotInsert t a v) b = if b = a then v else slotGet t b := by
  induction t with
  | nil => simp [slotInsert, slotGet, eq_comm]
  | cons e t ih =>
    obtain ⟨k, u⟩ := e
    by_cases h1 : a < k
    · by_cases hb : b = a
      · simp [slotInsert, h1, slotGet, hb]
      · simp [slotInsert, h1, slotGet, hb, Ne.symm hb]
    · by_cases h2 : a = k
      · subst h2
        by_cases hb : b = a
        · simp [slotInsert, slotGet, hb]
        · simp [slotInsert, slotGet, hb, Ne.symm hb]
      · simp only [slotInsert, h1, h2, if_false, slotGet, ih]
        by_cases hk : k = b
        · have : b ≠ a := by omega
          simp [hk, this]
        · simp [hk]

theorem slotGet_set (t : SlotTable) (a : Nat) (v : Slot) (b : Nat) :
    slotGet (slotSet t a v) b = if b = a then v else slotGet t b := by
  by_cases h : v = .stub
  · simp [slotSet, h, slotGet_erase]
  · simp [slotSet, h, slotGet_insert]

theorem slotGet_append (t u : SlotTable) (a : Nat) (h : ∀ e ∈ t, e.1 ≠ a) : slotGet (t ++ u) a = slotGet u a := by
  induction t with
  | nil => rfl
  | cons e t ih =>
    obtain ⟨k, v⟩ := e
    have : k ≠ a := h (k, v) (by simp)
    simp [slotGet, this, ih fun e he => h e (by simp [he])]

theorem slotGet_append_left (t u : SlotTable) (a : Nat) (h : ∀ e ∈ u, e.1 ≠ a) : slotGet (t ++ u) a = slotGet t a := by
  induction t with
  | nil =>
    have := slotGet_append u [] a h
    simpa using this
  | cons e t ih =>
    obtain ⟨k, v⟩ := e
    simp [slotGet, ih]

theorem slotGet_filter (t : SlotTable) (p : Nat × Slot → Bool) (a : Nat) (h : ∀ e ∈ t, e.1 = a → p e = true) :
    slotGet (t.filter p) a = slotGet t a := by
  induction t with
  | nil => rfl
  | cons e t ih =>
    obtain ⟨k, v⟩ := e
    have iht := ih fun e he => h e (by simp [he])
    by_cases hk : k = a
    · have := h (k, v) (by simp) hk
      rw [List.filter_cons, if_pos this]
      simp [slotGet, hk]
    · by_cases hp : p (k, v)
      · simp [hp, slotGet, hk, iht]
      · simp [hp, slotGet, hk, iht]

theorem slotGet_map (ks : List Nat) (f : Nat → Slot) (a : Nat) :
    slotGet ((ks.map fun k => (k, f k)).filter fun e => e.2 != .stub) a = if a ∈ ks then f a else .stub := by
  induction ks with
  | nil => simp
  | cons k ks ih =>
    by_cases hs : f k = .stub
    · simp only [List.map_cons, List.filter_cons, hs, bne_self_eq_false, Bool.false_eq_true, if_false, ih]
      by_cases ha : a = k
      · subst ha; by_cases hm : a ∈ ks <;> simp [hm, hs]
      · simp [ha]
    · have : (f k != .stub) = true := by simpa using hs
      simp only [List.map_cons, List.filter_cons, this, if_true, slotGet, ih]
      by_cases ha : k = a
      · subst ha; simp
      · simp [ha, Ne.symm ha]

theorem mem_pageAddrs (a b : Nat) : b ∈ pageAddrs a ↔ pageBase a ≤ b ∧ b < pageBase a + pageWords := by
  simp [pageAddrs, List.mem_range'_1]

/-- Every slot of the page takes its new value, and no other changes (R131 to R134). -/
theorem slotGet_fill (t : SlotTable) (a : Nat) (f : Nat → Slot) (b : Nat) :
    slotGet (slotFill t a f) b = if b ∈ pageAddrs a then f b else slotGet t b := by
  rw [slotFill]
  by_cases hb : b ∈ pageAddrs a
  · have hb' := (mem_pageAddrs a b).mp hb
    rw [slotGet_append_left, slotGet_append, slotGet_map]
    · simp only [if_pos hb]
    · intro e he
      have := (List.mem_filter.mp he).2
      simp at this; omega
    · intro e he
      have := (List.mem_filter.mp he).2
      simp at this; omega
  · have hb' := (mem_pageAddrs a b).not.mp hb
    simp only [if_neg hb]
    by_cases hlo : b < pageBase a
    · rw [slotGet_append_left, slotGet_append_left, slotGet_filter]
      · intro e _ he; simp [he, hlo]
      · intro e he
        have := (List.mem_map.mp (List.mem_filter.mp he).1)
        obtain ⟨k, hk, rfl⟩ := this
        intro h; simp only at h; subst h; exact hb hk
      · intro e he
        have := (List.mem_filter.mp he).2
        simp at this; omega
    · rw [slotGet_append, slotGet_filter]
      · intro e _ he; simp [he]; omega
      · intro e he
        rcases List.mem_append.mp he with he | he
        · have := (List.mem_filter.mp he).2
          simp at this; omega
        · obtain ⟨k, hk, rfl⟩ := (List.mem_map.mp (List.mem_filter.mp he).1)
          intro h; simp only at h; subst h; exact hb hk

/-! ## Slots: the canonical form -/

theorem slotErase_wf {t : SlotTable} (a : Nat) (h : t.wf) : (slotErase t a).wf :=
  ⟨h.1.filter _, fun e he => h.2 e (List.mem_filter.mp he).1⟩

theorem mem_slotInsert {t : SlotTable} {a : Nat} {v : Slot} {e : Nat × Slot} (h : e ∈ slotInsert t a v) :
    e = (a, v) ∨ e ∈ t := by
  induction t with
  | nil => simpa [slotInsert] using h
  | cons d t ih =>
    obtain ⟨k, u⟩ := d
    by_cases h1 : a < k
    · simpa [slotInsert, h1] using h
    · by_cases h2 : a = k
      · subst h2
        simp only [slotInsert, h1, if_false, if_true] at h
        rcases List.mem_cons.mp h with rfl | h
        · simp
        · simp [h]
      · simp only [slotInsert, h1, h2, if_false] at h
        rcases List.mem_cons.mp h with rfl | h
        · simp
        · rcases ih h with rfl | h
          · simp
          · simp [h]

theorem slotInsert_wf {t : SlotTable} {a : Nat} {v : Slot} (h : t.wf) (ha : a < addressCount) (hv : v ≠ .stub) :
    (slotInsert t a v).wf := by
  constructor
  · have hp := h.1
    clear h
    induction t with
    | nil => simp [slotInsert]
    | cons d t ih =>
      obtain ⟨k, u⟩ := d
      rw [List.pairwise_cons] at hp
      by_cases h1 : a < k
      · simp only [slotInsert, h1, if_true]
        rw [List.pairwise_cons, List.pairwise_cons]
        refine ⟨fun e he => ?_, hp⟩
        rcases List.mem_cons.mp he with rfl | he
        · exact h1
        · have := hp.1 e he; simp only at this ⊢; omega
      · by_cases h2 : a = k
        · subst h2
          simp only [slotInsert, if_true, h1, if_false]
          rw [List.pairwise_cons]
          exact ⟨hp.1, hp.2⟩
        · simp only [slotInsert, h1, h2, if_false]
          rw [List.pairwise_cons]
          refine ⟨fun e he => ?_, ih hp.2⟩
          rcases mem_slotInsert he with rfl | he
          · simp only; omega
          · exact hp.1 e he
  · intro e he
    rcases mem_slotInsert he with rfl | he
    · exact ⟨ha, hv⟩
    · exact h.2 e he

theorem slotSet_wf {t : SlotTable} {a : Nat} (v : Slot) (h : t.wf) (ha : a < addressCount) : (slotSet t a v).wf := by
  by_cases hv : v = .stub
  · simpa [slotSet, hv] using slotErase_wf a h
  · simpa [slotSet, hv] using slotInsert_wf h ha hv

theorem pageAddrs_lt {a b : Nat} (ha : a < addressCount) (hb : b ∈ pageAddrs a) : b < addressCount := by
  rw [mem_pageAddrs] at hb
  simp only [addressCount, pageBase, pageWords] at *
  omega

theorem slotFill_wf {t : SlotTable} {a : Nat} (f : Nat → Slot) (h : t.wf) (ha : a < addressCount) :
    (slotFill t a f).wf := by
  have hmid : ∀ e ∈ ((pageAddrs a).map fun k => (k, f k)).filter (fun e => e.2 != .stub), e.1 ∈ pageAddrs a := by
    intro e he
    obtain ⟨k, hk, rfl⟩ := List.mem_map.mp (List.mem_filter.mp he).1
    exact hk
  constructor
  · rw [slotFill, List.pairwise_append, List.pairwise_append]
    refine ⟨⟨h.1.filter _, ?_, ?_⟩, h.1.filter _, ?_⟩
    · refine List.Pairwise.filter _ ?_
      rw [List.pairwise_map]
      exact List.pairwise_lt_range'
    · intro x hx y hy
      have hx' := (List.mem_filter.mp hx).2
      have hy' := (mem_pageAddrs a y.1).mp (hmid y hy)
      simp at hx'; omega
    · intro x hx y hy
      have hy' := (List.mem_filter.mp hy).2
      simp only [decide_eq_true_eq] at hy'
      rcases List.mem_append.mp hx with hx | hx
      · have hx' := (List.mem_filter.mp hx).2
        simp only [decide_eq_true_eq] at hx'; omega
      · have hx' := (mem_pageAddrs a x.1).mp (hmid x hx)
        omega
  · intro e he
    rw [slotFill] at he
    rcases List.mem_append.mp he with he | he
    · rcases List.mem_append.mp he with he | he
      · exact h.2 e (List.mem_filter.mp he).1
      · exact ⟨pageAddrs_lt ha (hmid e he), by simpa using (List.mem_filter.mp he).2⟩
    · exact h.2 e (List.mem_filter.mp he).1

end Sys2Proof.Machine
end

