-- ==== Sys2Proof/Laws/State.lean ====
section
/-! SUPPORT. One lemma per field per update of the state, so that no proof unfolds a record update; then the reads of
accumulators, slots and memory words across the updates. -/

namespace Sys2Proof.Machine

variable (s : State)

@[simp] theorem State.setPc_pc (p : Addr) : (s.setPc p).pc = p := rfl
@[simp] theorem State.setPc_ac (p : Addr) : (s.setPc p).ac = s.ac := rfl
@[simp] theorem State.setPc_flags (p : Addr) : (s.setPc p).flags = s.flags := rfl
@[simp] theorem State.setPc_ir (p : Addr) : (s.setPc p).ir = s.ir := rfl
@[simp] theorem State.setPc_ar (p : Addr) : (s.setPc p).ar = s.ar := rfl
@[simp] theorem State.setPc_br (p : Addr) : (s.setPc p).br = s.br := rfl
@[simp] theorem State.setPc_mq (p : Addr) : (s.setPc p).mq = s.mq := rfl
@[simp] theorem State.setPc_ma (p : Addr) : (s.setPc p).ma = s.ma := rfl
@[simp] theorem State.setPc_mb (p : Addr) : (s.setPc p).mb = s.mb := rfl
@[simp] theorem State.setPc_fm (p : Addr) : (s.setPc p).fm = s.fm := rfl
@[simp] theorem State.setPc_mem (p : Addr) : (s.setPc p).mem = s.mem := rfl
@[simp] theorem State.setPc_slots (p : Addr) : (s.setPc p).slots = s.slots := rfl
@[simp] theorem State.setPc_status (p : Addr) : (s.setPc p).status = s.status := rfl
@[simp] theorem State.setPc_cursor (p : Addr) : (s.setPc p).cursor = s.cursor := rfl
@[simp] theorem State.setPc_started (p : Addr) : (s.setPc p).started = s.started := rfl
@[simp] theorem State.setPc_config (p : Addr) : (s.setPc p).config = s.config := rfl
@[simp] theorem State.setPc_draws (p : Addr) : (s.setPc p).draws = s.draws := rfl
@[simp] theorem State.setPc_allocScript (p : Addr) : (s.setPc p).allocScript = s.allocScript := rfl
@[simp] theorem State.setPc_serviceScript (p : Addr) : (s.setPc p).serviceScript = s.serviceScript := rfl

@[simp] theorem State.setIr_pc (w : Word) : (s.setIr w).pc = s.pc := rfl
@[simp] theorem State.setIr_ac (w : Word) : (s.setIr w).ac = s.ac := rfl
@[simp] theorem State.setIr_flags (w : Word) : (s.setIr w).flags = s.flags := rfl
@[simp] theorem State.setIr_ir (w : Word) : (s.setIr w).ir = w := rfl
@[simp] theorem State.setIr_ar (w : Word) : (s.setIr w).ar = s.ar := rfl
@[simp] theorem State.setIr_br (w : Word) : (s.setIr w).br = s.br := rfl
@[simp] theorem State.setIr_mq (w : Word) : (s.setIr w).mq = s.mq := rfl
@[simp] theorem State.setIr_ma (w : Word) : (s.setIr w).ma = s.ma := rfl
@[simp] theorem State.setIr_mb (w : Word) : (s.setIr w).mb = s.mb := rfl
@[simp] theorem State.setIr_fm (w : Word) : (s.setIr w).fm = s.fm := rfl
@[simp] theorem State.setIr_mem (w : Word) : (s.setIr w).mem = s.mem := rfl
@[simp] theorem State.setIr_slots (w : Word) : (s.setIr w).slots = s.slots := rfl
@[simp] theorem State.setIr_status (w : Word) : (s.setIr w).status = s.status := rfl
@[simp] theorem State.setIr_cursor (w : Word) : (s.setIr w).cursor = s.cursor := rfl
@[simp] theorem State.setIr_started (w : Word) : (s.setIr w).started = s.started := rfl
@[simp] theorem State.setIr_config (w : Word) : (s.setIr w).config = s.config := rfl
@[simp] theorem State.setIr_draws (w : Word) : (s.setIr w).draws = s.draws := rfl
@[simp] theorem State.setIr_allocScript (w : Word) : (s.setIr w).allocScript = s.allocScript := rfl
@[simp] theorem State.setIr_serviceScript (w : Word) : (s.setIr w).serviceScript = s.serviceScript := rfl

@[simp] theorem State.latch_pc (w : Word) : (s.latch w).pc = s.pc := rfl
@[simp] theorem State.latch_ac (w : Word) : (s.latch w).ac = acOf w := rfl
@[simp] theorem State.latch_flags (w : Word) : (s.latch w).flags = s.flags := rfl
@[simp] theorem State.latch_ir (w : Word) : (s.latch w).ir = w := rfl
@[simp] theorem State.latch_ar (w : Word) : (s.latch w).ar = s.ar := rfl
@[simp] theorem State.latch_br (w : Word) : (s.latch w).br = s.br := rfl
@[simp] theorem State.latch_mq (w : Word) : (s.latch w).mq = s.mq := rfl
@[simp] theorem State.latch_ma (w : Word) : (s.latch w).ma = s.ma := rfl
@[simp] theorem State.latch_mb (w : Word) : (s.latch w).mb = s.mb := rfl
@[simp] theorem State.latch_fm (w : Word) : (s.latch w).fm = s.fm := rfl
@[simp] theorem State.latch_mem (w : Word) : (s.latch w).mem = s.mem := rfl
@[simp] theorem State.latch_slots (w : Word) : (s.latch w).slots = s.slots := rfl
@[simp] theorem State.latch_status (w : Word) : (s.latch w).status = s.status := rfl
@[simp] theorem State.latch_cursor (w : Word) : (s.latch w).cursor = s.cursor := rfl
@[simp] theorem State.latch_started (w : Word) : (s.latch w).started = s.started := rfl
@[simp] theorem State.latch_config (w : Word) : (s.latch w).config = s.config := rfl
@[simp] theorem State.latch_draws (w : Word) : (s.latch w).draws = s.draws := rfl
@[simp] theorem State.latch_allocScript (w : Word) : (s.latch w).allocScript = s.allocScript := rfl
@[simp] theorem State.latch_serviceScript (w : Word) : (s.latch w).serviceScript = s.serviceScript := rfl

@[simp] theorem State.setMb_pc (w : Word) : (s.setMb w).pc = s.pc := rfl
@[simp] theorem State.setMb_ac (w : Word) : (s.setMb w).ac = s.ac := rfl
@[simp] theorem State.setMb_flags (w : Word) : (s.setMb w).flags = s.flags := rfl
@[simp] theorem State.setMb_ir (w : Word) : (s.setMb w).ir = s.ir := rfl
@[simp] theorem State.setMb_ar (w : Word) : (s.setMb w).ar = s.ar := rfl
@[simp] theorem State.setMb_br (w : Word) : (s.setMb w).br = s.br := rfl
@[simp] theorem State.setMb_mq (w : Word) : (s.setMb w).mq = s.mq := rfl
@[simp] theorem State.setMb_ma (w : Word) : (s.setMb w).ma = s.ma := rfl
@[simp] theorem State.setMb_mb (w : Word) : (s.setMb w).mb = w := rfl
@[simp] theorem State.setMb_fm (w : Word) : (s.setMb w).fm = s.fm := rfl
@[simp] theorem State.setMb_mem (w : Word) : (s.setMb w).mem = s.mem := rfl
@[simp] theorem State.setMb_slots (w : Word) : (s.setMb w).slots = s.slots := rfl
@[simp] theorem State.setMb_status (w : Word) : (s.setMb w).status = s.status := rfl
@[simp] theorem State.setMb_cursor (w : Word) : (s.setMb w).cursor = s.cursor := rfl
@[simp] theorem State.setMb_started (w : Word) : (s.setMb w).started = s.started := rfl
@[simp] theorem State.setMb_config (w : Word) : (s.setMb w).config = s.config := rfl
@[simp] theorem State.setMb_draws (w : Word) : (s.setMb w).draws = s.draws := rfl
@[simp] theorem State.setMb_allocScript (w : Word) : (s.setMb w).allocScript = s.allocScript := rfl
@[simp] theorem State.setMb_serviceScript (w : Word) : (s.setMb w).serviceScript = s.serviceScript := rfl

@[simp] theorem State.setEa_pc (e : Addr) (w : Word) : (s.setEa e w).pc = s.pc := rfl
@[simp] theorem State.setEa_ac (e : Addr) (w : Word) : (s.setEa e w).ac = s.ac := rfl
@[simp] theorem State.setEa_flags (e : Addr) (w : Word) : (s.setEa e w).flags = s.flags := rfl
@[simp] theorem State.setEa_ir (e : Addr) (w : Word) : (s.setEa e w).ir = s.ir := rfl
@[simp] theorem State.setEa_ar (e : Addr) (w : Word) : (s.setEa e w).ar = s.ar := rfl
@[simp] theorem State.setEa_br (e : Addr) (w : Word) : (s.setEa e w).br = s.br := rfl
@[simp] theorem State.setEa_mq (e : Addr) (w : Word) : (s.setEa e w).mq = s.mq := rfl
@[simp] theorem State.setEa_ma (e : Addr) (w : Word) : (s.setEa e w).ma = e.setWidth 36 := rfl
@[simp] theorem State.setEa_mb (e : Addr) (w : Word) : (s.setEa e w).mb = w := rfl
@[simp] theorem State.setEa_fm (e : Addr) (w : Word) : (s.setEa e w).fm = s.fm := rfl
@[simp] theorem State.setEa_mem (e : Addr) (w : Word) : (s.setEa e w).mem = s.mem := rfl
@[simp] theorem State.setEa_slots (e : Addr) (w : Word) : (s.setEa e w).slots = s.slots := rfl
@[simp] theorem State.setEa_status (e : Addr) (w : Word) : (s.setEa e w).status = s.status := rfl
@[simp] theorem State.setEa_cursor (e : Addr) (w : Word) : (s.setEa e w).cursor = s.cursor := rfl
@[simp] theorem State.setEa_started (e : Addr) (w : Word) : (s.setEa e w).started = s.started := rfl
@[simp] theorem State.setEa_config (e : Addr) (w : Word) : (s.setEa e w).config = s.config := rfl
@[simp] theorem State.setEa_draws (e : Addr) (w : Word) : (s.setEa e w).draws = s.draws := rfl
@[simp] theorem State.setEa_allocScript (e : Addr) (w : Word) : (s.setEa e w).allocScript = s.allocScript := rfl
@[simp] theorem State.setEa_serviceScript (e : Addr) (w : Word) : (s.setEa e w).serviceScript = s.serviceScript := rfl

@[simp] theorem State.setAr_pc (v : Word) : (s.setAr v).pc = s.pc := rfl
@[simp] theorem State.setAr_ac (v : Word) : (s.setAr v).ac = s.ac := rfl
@[simp] theorem State.setAr_flags (v : Word) : (s.setAr v).flags = s.flags := rfl
@[simp] theorem State.setAr_ir (v : Word) : (s.setAr v).ir = s.ir := rfl
@[simp] theorem State.setAr_ar (v : Word) : (s.setAr v).ar = v := rfl
@[simp] theorem State.setAr_br (v : Word) : (s.setAr v).br = s.br := rfl
@[simp] theorem State.setAr_mq (v : Word) : (s.setAr v).mq = s.mq := rfl
@[simp] theorem State.setAr_ma (v : Word) : (s.setAr v).ma = s.ma := rfl
@[simp] theorem State.setAr_mb (v : Word) : (s.setAr v).mb = s.mb := rfl
@[simp] theorem State.setAr_fm (v : Word) : (s.setAr v).fm = s.fm := rfl
@[simp] theorem State.setAr_mem (v : Word) : (s.setAr v).mem = s.mem := rfl
@[simp] theorem State.setAr_slots (v : Word) : (s.setAr v).slots = s.slots := rfl
@[simp] theorem State.setAr_status (v : Word) : (s.setAr v).status = s.status := rfl
@[simp] theorem State.setAr_cursor (v : Word) : (s.setAr v).cursor = s.cursor := rfl
@[simp] theorem State.setAr_started (v : Word) : (s.setAr v).started = s.started := rfl
@[simp] theorem State.setAr_config (v : Word) : (s.setAr v).config = s.config := rfl
@[simp] theorem State.setAr_draws (v : Word) : (s.setAr v).draws = s.draws := rfl
@[simp] theorem State.setAr_allocScript (v : Word) : (s.setAr v).allocScript = s.allocScript := rfl
@[simp] theorem State.setAr_serviceScript (v : Word) : (s.setAr v).serviceScript = s.serviceScript := rfl

@[simp] theorem State.setBr_pc (v : Word) : (s.setBr v).pc = s.pc := rfl
@[simp] theorem State.setBr_ac (v : Word) : (s.setBr v).ac = s.ac := rfl
@[simp] theorem State.setBr_flags (v : Word) : (s.setBr v).flags = s.flags := rfl
@[simp] theorem State.setBr_ir (v : Word) : (s.setBr v).ir = s.ir := rfl
@[simp] theorem State.setBr_ar (v : Word) : (s.setBr v).ar = s.ar := rfl
@[simp] theorem State.setBr_br (v : Word) : (s.setBr v).br = v := rfl
@[simp] theorem State.setBr_mq (v : Word) : (s.setBr v).mq = s.mq := rfl
@[simp] theorem State.setBr_ma (v : Word) : (s.setBr v).ma = s.ma := rfl
@[simp] theorem State.setBr_mb (v : Word) : (s.setBr v).mb = s.mb := rfl
@[simp] theorem State.setBr_fm (v : Word) : (s.setBr v).fm = s.fm := rfl
@[simp] theorem State.setBr_mem (v : Word) : (s.setBr v).mem = s.mem := rfl
@[simp] theorem State.setBr_slots (v : Word) : (s.setBr v).slots = s.slots := rfl
@[simp] theorem State.setBr_status (v : Word) : (s.setBr v).status = s.status := rfl
@[simp] theorem State.setBr_cursor (v : Word) : (s.setBr v).cursor = s.cursor := rfl
@[simp] theorem State.setBr_started (v : Word) : (s.setBr v).started = s.started := rfl
@[simp] theorem State.setBr_config (v : Word) : (s.setBr v).config = s.config := rfl
@[simp] theorem State.setBr_draws (v : Word) : (s.setBr v).draws = s.draws := rfl
@[simp] theorem State.setBr_allocScript (v : Word) : (s.setBr v).allocScript = s.allocScript := rfl
@[simp] theorem State.setBr_serviceScript (v : Word) : (s.setBr v).serviceScript = s.serviceScript := rfl

@[simp] theorem State.drawFlags_pc : (s.drawFlags).pc = s.pc := rfl
@[simp] theorem State.drawFlags_ac : (s.drawFlags).ac = s.ac := rfl
@[simp] theorem State.drawFlags_flags : (s.drawFlags).flags = Config.flagsDraw s.draws := rfl
@[simp] theorem State.drawFlags_ir : (s.drawFlags).ir = s.ir := rfl
@[simp] theorem State.drawFlags_ar : (s.drawFlags).ar = s.ar := rfl
@[simp] theorem State.drawFlags_br : (s.drawFlags).br = s.br := rfl
@[simp] theorem State.drawFlags_mq : (s.drawFlags).mq = s.mq := rfl
@[simp] theorem State.drawFlags_ma : (s.drawFlags).ma = s.ma := rfl
@[simp] theorem State.drawFlags_mb : (s.drawFlags).mb = s.mb := rfl
@[simp] theorem State.drawFlags_fm : (s.drawFlags).fm = s.fm := rfl
@[simp] theorem State.drawFlags_mem : (s.drawFlags).mem = s.mem := rfl
@[simp] theorem State.drawFlags_slots : (s.drawFlags).slots = s.slots := rfl
@[simp] theorem State.drawFlags_status : (s.drawFlags).status = s.status := rfl
@[simp] theorem State.drawFlags_cursor : (s.drawFlags).cursor = s.cursor := rfl
@[simp] theorem State.drawFlags_started : (s.drawFlags).started = s.started := rfl
@[simp] theorem State.drawFlags_config : (s.drawFlags).config = s.config := rfl
@[simp] theorem State.drawFlags_draws : (s.drawFlags).draws = s.draws + 1 := rfl
@[simp] theorem State.drawFlags_allocScript : (s.drawFlags).allocScript = s.allocScript := rfl
@[simp] theorem State.drawFlags_serviceScript : (s.drawFlags).serviceScript = s.serviceScript := rfl

@[simp] theorem State.setFm_pc (i : AcNum) (v : Word) : (s.setFm i v).pc = s.pc := rfl
@[simp] theorem State.setFm_ac (i : AcNum) (v : Word) : (s.setFm i v).ac = s.ac := rfl
@[simp] theorem State.setFm_flags (i : AcNum) (v : Word) : (s.setFm i v).flags = s.flags := rfl
@[simp] theorem State.setFm_ir (i : AcNum) (v : Word) : (s.setFm i v).ir = s.ir := rfl
@[simp] theorem State.setFm_ar (i : AcNum) (v : Word) : (s.setFm i v).ar = s.ar := rfl
@[simp] theorem State.setFm_br (i : AcNum) (v : Word) : (s.setFm i v).br = s.br := rfl
@[simp] theorem State.setFm_mq (i : AcNum) (v : Word) : (s.setFm i v).mq = s.mq := rfl
@[simp] theorem State.setFm_ma (i : AcNum) (v : Word) : (s.setFm i v).ma = s.ma := rfl
@[simp] theorem State.setFm_mb (i : AcNum) (v : Word) : (s.setFm i v).mb = s.mb := rfl
@[simp] theorem State.setFm_fm (i : AcNum) (v : Word) : (s.setFm i v).fm = s.fm.set i.toNat (some v) i.isLt := rfl
@[simp] theorem State.setFm_mem (i : AcNum) (v : Word) : (s.setFm i v).mem = s.mem := rfl
@[simp] theorem State.setFm_slots (i : AcNum) (v : Word) : (s.setFm i v).slots = s.slots := rfl
@[simp] theorem State.setFm_status (i : AcNum) (v : Word) : (s.setFm i v).status = s.status := rfl
@[simp] theorem State.setFm_cursor (i : AcNum) (v : Word) : (s.setFm i v).cursor = s.cursor := rfl
@[simp] theorem State.setFm_started (i : AcNum) (v : Word) : (s.setFm i v).started = s.started := rfl
@[simp] theorem State.setFm_config (i : AcNum) (v : Word) : (s.setFm i v).config = s.config := rfl
@[simp] theorem State.setFm_draws (i : AcNum) (v : Word) : (s.setFm i v).draws = s.draws := rfl
@[simp] theorem State.setFm_allocScript (i : AcNum) (v : Word) : (s.setFm i v).allocScript = s.allocScript := rfl
@[simp] theorem State.setFm_serviceScript (i : AcNum) (v : Word) : (s.setFm i v).serviceScript = s.serviceScript := rfl

@[simp] theorem State.setMem_pc (m : Memory) : (s.setMem m).pc = s.pc := rfl
@[simp] theorem State.setMem_ac (m : Memory) : (s.setMem m).ac = s.ac := rfl
@[simp] theorem State.setMem_flags (m : Memory) : (s.setMem m).flags = s.flags := rfl
@[simp] theorem State.setMem_ir (m : Memory) : (s.setMem m).ir = s.ir := rfl
@[simp] theorem State.setMem_ar (m : Memory) : (s.setMem m).ar = s.ar := rfl
@[simp] theorem State.setMem_br (m : Memory) : (s.setMem m).br = s.br := rfl
@[simp] theorem State.setMem_mq (m : Memory) : (s.setMem m).mq = s.mq := rfl
@[simp] theorem State.setMem_ma (m : Memory) : (s.setMem m).ma = s.ma := rfl
@[simp] theorem State.setMem_mb (m : Memory) : (s.setMem m).mb = s.mb := rfl
@[simp] theorem State.setMem_fm (m : Memory) : (s.setMem m).fm = s.fm := rfl
@[simp] theorem State.setMem_mem (m : Memory) : (s.setMem m).mem = m := rfl
@[simp] theorem State.setMem_slots (m : Memory) : (s.setMem m).slots = s.slots := rfl
@[simp] theorem State.setMem_status (m : Memory) : (s.setMem m).status = s.status := rfl
@[simp] theorem State.setMem_cursor (m : Memory) : (s.setMem m).cursor = s.cursor := rfl
@[simp] theorem State.setMem_started (m : Memory) : (s.setMem m).started = s.started := rfl
@[simp] theorem State.setMem_config (m : Memory) : (s.setMem m).config = s.config := rfl
@[simp] theorem State.setMem_draws (m : Memory) : (s.setMem m).draws = s.draws := rfl
@[simp] theorem State.setMem_allocScript (m : Memory) : (s.setMem m).allocScript = s.allocScript := rfl
@[simp] theorem State.setMem_serviceScript (m : Memory) : (s.setMem m).serviceScript = s.serviceScript := rfl

@[simp] theorem State.setSlots_pc (t : SlotTable) : (s.setSlots t).pc = s.pc := rfl
@[simp] theorem State.setSlots_ac (t : SlotTable) : (s.setSlots t).ac = s.ac := rfl
@[simp] theorem State.setSlots_flags (t : SlotTable) : (s.setSlots t).flags = s.flags := rfl
@[simp] theorem State.setSlots_ir (t : SlotTable) : (s.setSlots t).ir = s.ir := rfl
@[simp] theorem State.setSlots_ar (t : SlotTable) : (s.setSlots t).ar = s.ar := rfl
@[simp] theorem State.setSlots_br (t : SlotTable) : (s.setSlots t).br = s.br := rfl
@[simp] theorem State.setSlots_mq (t : SlotTable) : (s.setSlots t).mq = s.mq := rfl
@[simp] theorem State.setSlots_ma (t : SlotTable) : (s.setSlots t).ma = s.ma := rfl
@[simp] theorem State.setSlots_mb (t : SlotTable) : (s.setSlots t).mb = s.mb := rfl
@[simp] theorem State.setSlots_fm (t : SlotTable) : (s.setSlots t).fm = s.fm := rfl
@[simp] theorem State.setSlots_mem (t : SlotTable) : (s.setSlots t).mem = s.mem := rfl
@[simp] theorem State.setSlots_slots (t : SlotTable) : (s.setSlots t).slots = t := rfl
@[simp] theorem State.setSlots_status (t : SlotTable) : (s.setSlots t).status = s.status := rfl
@[simp] theorem State.setSlots_cursor (t : SlotTable) : (s.setSlots t).cursor = s.cursor := rfl
@[simp] theorem State.setSlots_started (t : SlotTable) : (s.setSlots t).started = s.started := rfl
@[simp] theorem State.setSlots_config (t : SlotTable) : (s.setSlots t).config = s.config := rfl
@[simp] theorem State.setSlots_draws (t : SlotTable) : (s.setSlots t).draws = s.draws := rfl
@[simp] theorem State.setSlots_allocScript (t : SlotTable) : (s.setSlots t).allocScript = s.allocScript := rfl
@[simp] theorem State.setSlots_serviceScript (t : SlotTable) : (s.setSlots t).serviceScript = s.serviceScript := rfl

@[simp] theorem State.setSlot_pc (a : Addr) (v : Slot) : (s.setSlot a v).pc = s.pc := rfl
@[simp] theorem State.setSlot_ac (a : Addr) (v : Slot) : (s.setSlot a v).ac = s.ac := rfl
@[simp] theorem State.setSlot_flags (a : Addr) (v : Slot) : (s.setSlot a v).flags = s.flags := rfl
@[simp] theorem State.setSlot_ir (a : Addr) (v : Slot) : (s.setSlot a v).ir = s.ir := rfl
@[simp] theorem State.setSlot_ar (a : Addr) (v : Slot) : (s.setSlot a v).ar = s.ar := rfl
@[simp] theorem State.setSlot_br (a : Addr) (v : Slot) : (s.setSlot a v).br = s.br := rfl
@[simp] theorem State.setSlot_mq (a : Addr) (v : Slot) : (s.setSlot a v).mq = s.mq := rfl
@[simp] theorem State.setSlot_ma (a : Addr) (v : Slot) : (s.setSlot a v).ma = s.ma := rfl
@[simp] theorem State.setSlot_mb (a : Addr) (v : Slot) : (s.setSlot a v).mb = s.mb := rfl
@[simp] theorem State.setSlot_fm (a : Addr) (v : Slot) : (s.setSlot a v).fm = s.fm := rfl
@[simp] theorem State.setSlot_mem (a : Addr) (v : Slot) : (s.setSlot a v).mem = s.mem := rfl
@[simp] theorem State.setSlot_slots (a : Addr) (v : Slot) : (s.setSlot a v).slots = slotSet s.slots a.toNat v := rfl
@[simp] theorem State.setSlot_status (a : Addr) (v : Slot) : (s.setSlot a v).status = s.status := rfl
@[simp] theorem State.setSlot_cursor (a : Addr) (v : Slot) : (s.setSlot a v).cursor = s.cursor := rfl
@[simp] theorem State.setSlot_started (a : Addr) (v : Slot) : (s.setSlot a v).started = s.started := rfl
@[simp] theorem State.setSlot_config (a : Addr) (v : Slot) : (s.setSlot a v).config = s.config := rfl
@[simp] theorem State.setSlot_draws (a : Addr) (v : Slot) : (s.setSlot a v).draws = s.draws := rfl
@[simp] theorem State.setSlot_allocScript (a : Addr) (v : Slot) : (s.setSlot a v).allocScript = s.allocScript := rfl
@[simp] theorem State.setSlot_serviceScript (a : Addr) (v : Slot) : (s.setSlot a v).serviceScript = s.serviceScript := rfl

@[simp] theorem State.setStatus_pc (st : Status) : (s.setStatus st).pc = s.pc := rfl
@[simp] theorem State.setStatus_ac (st : Status) : (s.setStatus st).ac = s.ac := rfl
@[simp] theorem State.setStatus_flags (st : Status) : (s.setStatus st).flags = s.flags := rfl
@[simp] theorem State.setStatus_ir (st : Status) : (s.setStatus st).ir = s.ir := rfl
@[simp] theorem State.setStatus_ar (st : Status) : (s.setStatus st).ar = s.ar := rfl
@[simp] theorem State.setStatus_br (st : Status) : (s.setStatus st).br = s.br := rfl
@[simp] theorem State.setStatus_mq (st : Status) : (s.setStatus st).mq = s.mq := rfl
@[simp] theorem State.setStatus_ma (st : Status) : (s.setStatus st).ma = s.ma := rfl
@[simp] theorem State.setStatus_mb (st : Status) : (s.setStatus st).mb = s.mb := rfl
@[simp] theorem State.setStatus_fm (st : Status) : (s.setStatus st).fm = s.fm := rfl
@[simp] theorem State.setStatus_mem (st : Status) : (s.setStatus st).mem = s.mem := rfl
@[simp] theorem State.setStatus_slots (st : Status) : (s.setStatus st).slots = s.slots := rfl
@[simp] theorem State.setStatus_status (st : Status) : (s.setStatus st).status = st := rfl
@[simp] theorem State.setStatus_cursor (st : Status) : (s.setStatus st).cursor = s.cursor := rfl
@[simp] theorem State.setStatus_started (st : Status) : (s.setStatus st).started = s.started := rfl
@[simp] theorem State.setStatus_config (st : Status) : (s.setStatus st).config = s.config := rfl
@[simp] theorem State.setStatus_draws (st : Status) : (s.setStatus st).draws = s.draws := rfl
@[simp] theorem State.setStatus_allocScript (st : Status) : (s.setStatus st).allocScript = s.allocScript := rfl
@[simp] theorem State.setStatus_serviceScript (st : Status) : (s.setStatus st).serviceScript = s.serviceScript := rfl

@[simp] theorem State.setCursor_pc (c : Option Nat) : (s.setCursor c).pc = s.pc := rfl
@[simp] theorem State.setCursor_ac (c : Option Nat) : (s.setCursor c).ac = s.ac := rfl
@[simp] theorem State.setCursor_flags (c : Option Nat) : (s.setCursor c).flags = s.flags := rfl
@[simp] theorem State.setCursor_ir (c : Option Nat) : (s.setCursor c).ir = s.ir := rfl
@[simp] theorem State.setCursor_ar (c : Option Nat) : (s.setCursor c).ar = s.ar := rfl
@[simp] theorem State.setCursor_br (c : Option Nat) : (s.setCursor c).br = s.br := rfl
@[simp] theorem State.setCursor_mq (c : Option Nat) : (s.setCursor c).mq = s.mq := rfl
@[simp] theorem State.setCursor_ma (c : Option Nat) : (s.setCursor c).ma = s.ma := rfl
@[simp] theorem State.setCursor_mb (c : Option Nat) : (s.setCursor c).mb = s.mb := rfl
@[simp] theorem State.setCursor_fm (c : Option Nat) : (s.setCursor c).fm = s.fm := rfl
@[simp] theorem State.setCursor_mem (c : Option Nat) : (s.setCursor c).mem = s.mem := rfl
@[simp] theorem State.setCursor_slots (c : Option Nat) : (s.setCursor c).slots = s.slots := rfl
@[simp] theorem State.setCursor_status (c : Option Nat) : (s.setCursor c).status = s.status := rfl
@[simp] theorem State.setCursor_cursor (c : Option Nat) : (s.setCursor c).cursor = c := rfl
@[simp] theorem State.setCursor_started (c : Option Nat) : (s.setCursor c).started = s.started := rfl
@[simp] theorem State.setCursor_config (c : Option Nat) : (s.setCursor c).config = s.config := rfl
@[simp] theorem State.setCursor_draws (c : Option Nat) : (s.setCursor c).draws = s.draws := rfl
@[simp] theorem State.setCursor_allocScript (c : Option Nat) : (s.setCursor c).allocScript = s.allocScript := rfl
@[simp] theorem State.setCursor_serviceScript (c : Option Nat) : (s.setCursor c).serviceScript = s.serviceScript := rfl

/-! ## Accumulators -/

@[simp] theorem State.fmAt_setFm_same (i : AcNum) (v : Word) : (s.setFm i v).fmAt i = some v := by
  simp [State.fmAt]

theorem State.fmAt_setFm_ne {i j : AcNum} (v : Word) (h : j ≠ i) : (s.setFm i v).fmAt j = s.fmAt j := by
  have : i.toNat ≠ j.toNat := fun e => h (BitVec.eq_of_toNat_eq e.symm)
  simp [State.fmAt, Vector.getElem_set_ne, this]

/-- The read of an accumulator looks at FM alone. -/
theorem readFm_congr {s t : State} (h : s.fm = t.fm) (i : AcNum) : readFm s i = readFm t i := by
  simp [readFm, State.fmAt, h]

/-- An operand read looks at FM, memory and `ac_alias` alone. -/
theorem memRead_congr {s t : State} (hf : s.fm = t.fm) (hm : s.mem = t.mem) (hc : s.config = t.config) (a : Addr) :
    memRead s a = memRead t a := by
  simp [memRead, aliasesFm, State.memGet, hm, hc, readFm_congr hf]

end Sys2Proof.Machine
end

