-- ==== Sys2Proof/Laws/Ops.lean ====
section
/-! SUPPORT. For each shared operation, what it can do, said once: the lemmas that later proofs cite in place of its body. -/

namespace Sys2Proof.Machine

/-! ## Sequencing -/

@[simp] theorem andThen_next {α : Type} (s : State) (k : State → Host.Outcome α Fault Refusal) : andThen (.next s) k = k s := rfl

theorem andThen_eq_next {α : Type} {r : Result} {k : State → Host.Outcome α Fault Refusal} {b : α} :
    andThen r k = .next b ↔ ∃ s, r = .next s ∧ k s = .next b := by
  cases r <;> simp [andThen]

theorem andThen_eq_fault {α : Type} {r : Result} {k : State → Host.Outcome α Fault Refusal} {f : Fault} :
    andThen r k = .fault f ↔ r = .fault f ∨ ∃ s, r = .next s ∧ k s = .fault f := by
  cases r <;> simp [andThen]

theorem andThen_eq_refused {α : Type} {r : Result} {k : State → Host.Outcome α Fault Refusal} {f : Refusal} :
    andThen r k = .refused f ↔ r = .refused f ∨ ∃ s, r = .next s ∧ k s = .refused f := by
  cases r <;> simp [andThen]

theorem raise_ne_next {α : Type} {k : FaultKind} {s : State} {b : α} : raise k s ≠ .next b := by simp [raise]

theorem refuse_ne_next {α : Type} {r : RefuseReason} {s : State} {b : α} : refuse r s ≠ .next b := by simp [refuse]

theorem withRead_eq_next {r : Except FaultKind Word} {s t : State} {k : Word → Result} :
    withRead r s k = .next t ↔ ∃ v, r = .ok v ∧ k v = .next t := by
  cases r <;> simp [withRead, raise]

theorem withRead_eq_fault {r : Except FaultKind Word} {s : State} {k : Word → Result} {f : Fault} :
    withRead r s k = .fault f ↔
      (∃ j, r = .error j ∧ f = .raised j (s.setStatus (.fault j))) ∨ ∃ v, r = .ok v ∧ k v = .fault f := by
  cases r <;> simp [withRead, raise, eq_comm]

theorem withRead_eq_refused {r : Except FaultKind Word} {s : State} {k : Word → Result} {f : Refusal} :
    withRead r s k = .refused f ↔ ∃ v, r = .ok v ∧ k v = .refused f := by
  cases r <;> simp [withRead, raise]

/-! ## Reads -/

theorem memRead_ok {s : State} {a : Addr} {v : Word} (h : memRead s a = .ok v) :
    aliasesFm s a = true ∨ (aliasesFm s a = false ∧ s.memGet a = some v) := by
  unfold memRead at h
  by_cases ha : aliasesFm s a
  · exact .inl ha
  · right
    simp only [ha, Bool.false_eq_true, if_false] at h
    cases hm : s.memGet a with
    | none => simp [hm] at h
    | some w => simp only [hm, Except.ok.injEq] at h; simp [ha, h]

/-! ## Draws -/

/-- A draw moves the counter on and uses up the head of the script. -/
theorem drawAlloc_snd (s : State) :
    (drawAlloc s).2 = { s with draws := s.draws + 1, allocScript := s.allocScript.tail } := by
  unfold drawAlloc
  cases h : s.allocScript <;> simp

/-- A reply that is drawn is used up. -/
theorem drawReply_snd (w : Word) (e : Addr) (s : State) :
    (drawReply w e s).2 = { s with draws := s.draws + 1, serviceScript := s.serviceScript.tail } := by
  unfold drawReply
  cases h : s.serviceScript <;> simp

/-- A reply is drawn from the script and, beyond its end, from the state itself. -/
theorem drawReply_fst_of_script {s t : State} {r : ServiceReply} {l : List ServiceReply} (hs : s.serviceScript = r :: l)
    (ht : t.serviceScript = r :: l) (w : Word) (e : Addr) : (drawReply w e s).1 = (drawReply w e t).1 := by
  unfold drawReply
  simp [hs, ht]

/-! ## Monitor calls -/

/-- A served call is one of the three services that take a reply. -/
theorem muuoCall_of_served {w : Word} {e : Addr} {s : State} {v : ItsService}
    (hn : namedService s.config (callNumber s w e) = some v) (hv : v ≠ .dotLogout) :
    muuoCall w e s = servedCall w e s := by
  unfold muuoCall
  rw [hn]
  cases v <;> first | rfl | exact absurd rfl hv

/-- What a monitor call can go on with: the end of `.LOGOUT`, or what a `Continue` reply gives. -/
theorem muuoCall_eq_next {w : Word} {e : Addr} {s t : State} (h : muuoCall w e s = .next t) :
    (namedService s.config (callNumber s w e) = some .dotLogout ∧ t = s.setStatus .exit) ∨
    ∃ eff, (drawReply w e s).1 = .cont eff ∧ serviceContinue eff (drawReply w e s).2 = .next t := by
  have served : servedCall w e s = .next t →
      ∃ eff, (drawReply w e s).1 = .cont eff ∧ serviceContinue eff (drawReply w e s).2 = .next t := by
    unfold servedCall
    cases hr : (drawReply w e s).1 with
    | cont eff => exact fun h => ⟨eff, rfl, h⟩
    | fault k => simp [raise]
    | noReturn => simp
  unfold muuoCall at h
  cases hn : namedService s.config (callNumber s w e) with
  | none => simp [hn, raise] at h
  | some v =>
    cases v with
    | dotLogout => simp only [hn, Host.Outcome.next.injEq] at h; exact .inl ⟨rfl, h.symm⟩
    | dotOpen | dotSuset | dotEval => exact .inr (served (by simpa only [hn] using h))

/-- A monitor call is refused only inside a `Continue` reply, by a host step. -/
theorem muuoCall_eq_refused {w : Word} {e : Addr} {s : State} {r : Refusal} (h : muuoCall w e s = .refused r) :
    ∃ eff, (drawReply w e s).1 = .cont eff ∧ serviceContinue eff (drawReply w e s).2 = .refused r := by
  have served : servedCall w e s = .refused r →
      ∃ eff, (drawReply w e s).1 = .cont eff ∧ serviceContinue eff (drawReply w e s).2 = .refused r := by
    unfold servedCall
    cases hr : (drawReply w e s).1 with
    | cont eff => exact fun h => ⟨eff, rfl, h⟩
    | fault k => simp [raise]
    | noReturn => simp
  unfold muuoCall at h
  cases hn : namedService s.config (callNumber s w e) with
  | none => simp [hn, raise] at h
  | some v =>
    cases v with
    | dotLogout => simp [hn] at h
    | dotOpen | dotSuset | dotEval => exact served (by simpa only [hn] using h)

/-! ## Stores -/

/-- What a store can do: the word is there, every other word is as before, and nothing but memory and the draw of the
allocation has changed. -/
theorem setWordAt_eq_next {a : Addr} {w : Word} {s t : State} (h : setWordAt a w s = .next t) :
    ∃ m d l, t = { s with mem := m, draws := d, allocScript := l } ∧
      (∀ b, getWord m b = if b = a.toNat then some w else getWord s.mem b) ∧ (s.mem.wf → m.wf) := by
  unfold setWordAt at h
  cases hg : s.memGet a with
  | some v =>
    simp only [hg, Host.Outcome.next.injEq] at h
    refine ⟨putWord s.mem a.toNat w, s.draws, s.allocScript, h.symm, fun b => ?_, putWord_wf _ _⟩
    by_cases hb : b = a.toNat
    · subst hb; simp [getWord_putWord_same w hg]
    · simp [getWord_putWord_ne _ w hb, hb]
  | none =>
    simp only [hg] at h
    by_cases hd : (drawAlloc s).1
    · simp [hd, raise] at h
    · simp only [hd, Bool.false_eq_true, if_false, Host.Outcome.next.injEq] at h
      refine ⟨insertArea (newArea s a.toNat [w]) s.mem, s.draws + 1, s.allocScript.tail, ?_, fun b => ?_, fun hw => ?_⟩
      · rw [← h, drawAlloc_snd]; rfl
      · exact getWord_insertArea_single _ w hg b
      · exact insertArea_wf hw (by simp [newArea]) (by have := a.isLt; simp [newArea, Area.stop, addressCount]; omega)
          (overlapsArea_single_of_none hg)

/-- A store fails only where it must make an area. -/
theorem setWordAt_eq_fault {a : Addr} {w : Word} {s : State} {f : Fault} (h : setWordAt a w s = .fault f) :
    s.memGet a = none ∧ f = .raised .outOfMemory ((drawAlloc s).2.setStatus (.fault .outOfMemory)) := by
  unfold setWordAt at h
  cases hg : s.memGet a with
  | some v => simp [hg] at h
  | none =>
    by_cases hd : (drawAlloc s).1
    · simp only [hg, hd, raise, if_true, Host.Outcome.fault.injEq] at h
      exact ⟨rfl, h.symm⟩
    · simp [hg, hd] at h

theorem setWordAt_ne_refused {a : Addr} {w : Word} {s : State} {f : Refusal} : setWordAt a w s ≠ .refused f := by
  unfold setWordAt
  cases s.memGet a with
  | some v => simp
  | none => by_cases hd : (drawAlloc s).1 <;> simp [hd, raise]

/-- What a write by the block can do (R61): write an accumulator, or store a word and invalidate its slot. -/
theorem memWrite_eq_next {a : Addr} {v : Word} {s t : State} (h : memWrite a v s = .next t) :
    (aliasesFm s a = true ∧ t = s.setFm (aliasedAc a) v) ∨
    (aliasesFm s a = false ∧
      ∃ m d l, t = { s with mem := m, slots := slotSet s.slots a.toNat .stub, draws := d, allocScript := l } ∧
        (∀ b, getWord m b = if b = a.toNat then some v else getWord s.mem b) ∧ (s.mem.wf → m.wf)) := by
  unfold memWrite at h
  by_cases ha : aliasesFm s a
  · simp only [ha, if_true, Host.Outcome.next.injEq] at h
    exact .inl ⟨ha, h.symm⟩
  · simp only [ha, Bool.false_eq_true, if_false] at h
    obtain ⟨u, hu, ht⟩ := andThen_eq_next.mp h
    obtain ⟨m, d, l, rfl, hg, hw⟩ := setWordAt_eq_next hu
    simp only [Host.Outcome.next.injEq] at ht
    exact .inr ⟨by simpa using ha, m, d, l, ht.symm, hg, hw⟩

/-- A write by the block fails only where it must make an area, and then has written nothing. -/
theorem memWrite_eq_fault {a : Addr} {v : Word} {s : State} {f : Fault} (h : memWrite a v s = .fault f) :
    aliasesFm s a = false ∧ s.memGet a = none ∧
      f = .raised .outOfMemory ((drawAlloc s).2.setStatus (.fault .outOfMemory)) := by
  unfold memWrite at h
  by_cases ha : aliasesFm s a
  · simp [ha] at h
  · simp only [ha, Bool.false_eq_true, if_false, andThen_eq_fault] at h
    obtain h | ⟨t, -, h⟩ := h
    · exact ⟨by simpa using ha, setWordAt_eq_fault h⟩
    · simp at h

theorem memWrite_ne_refused {a : Addr} {v : Word} {s : State} {f : Refusal} : memWrite a v s ≠ .refused f := by
  unfold memWrite
  by_cases ha : aliasesFm s a
  · simp [ha]
  · simp only [ha, Bool.false_eq_true, if_false, ne_eq, andThen_eq_refused, not_or]
    exact ⟨setWordAt_ne_refused, by simp⟩

/-- Where the address reaches an accumulator, or is mapped, a write by the block cannot fail. -/
theorem memWrite_of_mapped {a : Addr} (v : Word) {s : State} {u : Word} (ha : aliasesFm s a = false)
    (hm : s.memGet a = some u) :
    memWrite a v s = .next { s with mem := putWord s.mem a.toNat v, slots := slotSet s.slots a.toNat .stub } := by
  simp [memWrite, ha, setWordAt, hm, andThen, invalidateWord, State.setSlot, State.setSlots, State.setMem]

/-! ## Read-operands -/

/-- The read-operands uops write AR and BR alone. -/
theorem readOperands_eq_next {rd : Rd} {e : Addr} {s t : State} (h : readOperands rd e s = .next t) :
    t = { s with ar := t.ar, br := t.br } := by
  cases rd <;> simp only [readOperands, withRead_eq_next, Host.Outcome.next.injEq] at h
  case none => subst h; rfl
  case mem => obtain ⟨v, -, rfl⟩ := h; rfl
  case imm => subst h; rfl
  case ac => obtain ⟨v, -, rfl⟩ := h; rfl
  case acMem => obtain ⟨u, -, v, -, rfl⟩ := h; rfl
  case acImm => obtain ⟨u, -, rfl⟩ := h; rfl

/-- The read-operands uops fault on an accumulator that holds ⊥, or on the operand read. -/
theorem readOperands_eq_fault {rd : Rd} {e : Addr} {s : State} {f : Fault} (h : readOperands rd e s = .fault f) :
    ∃ k x, f = .raised k ({ s with ar := x }.setStatus (.fault k)) ∧
      ((k = .undefinedRegister s.ac ∧ s.fmAt s.ac = none) ∨ memRead s e = .error k) := by
  have hfm : ∀ {j}, readFm s s.ac = .error j → j = .undefinedRegister s.ac ∧ s.fmAt s.ac = none := by
    intro j hj
    unfold readFm at hj
    cases hv : s.fmAt s.ac <;> simp [hv] at hj
    exact ⟨hj.symm, rfl⟩
  cases rd <;> simp only [readOperands, withRead_eq_fault, reduceCtorEq, and_false, exists_false, or_false] at h
  case mem =>
    obtain ⟨k, hk, rfl⟩ := h
    exact ⟨k, s.ar, rfl, .inr hk⟩
  case ac =>
    obtain ⟨k, hk, rfl⟩ := h
    exact ⟨k, s.ar, rfl, .inl (hfm hk)⟩
  case acMem =>
    obtain ⟨k, hk, rfl⟩ | ⟨u, -, k, hk, rfl⟩ := h
    · exact ⟨k, s.ar, rfl, .inl (hfm hk)⟩
    · exact ⟨k, u, rfl, .inr ((memRead_congr rfl rfl rfl e).trans hk)⟩
  case acImm =>
    obtain ⟨k, hk, rfl⟩ := h
    exact ⟨k, s.ar, rfl, .inl (hfm hk)⟩

theorem readOperands_ne_refused {rd : Rd} {e : Addr} {s : State} {f : Refusal} : readOperands rd e s ≠ .refused f := by
  cases rd <;> simp [readOperands, withRead_eq_refused]

/-! ## Operate and write-back -/

/-- The operate uops write AR and `flags` alone, and count the draw. -/
theorem operate_eq (op : Op) (s : State) :
    operate op s = { s with ar := (operate op s).ar, flags := (operate op s).flags, draws := (operate op s).draws } := by
  cases op <;> rfl

/-- The write-back uops write FM, memory and slots alone, and count the draw of an allocation. -/
theorem writeBack_eq_next {wb : Wb} {e : Addr} {s t : State} (h : writeBack wb e s = .next t) :
    t = { s with fm := t.fm, mem := t.mem, slots := t.slots, draws := t.draws, allocScript := t.allocScript } := by
  have hm : ∀ {u}, memWrite e s.ar s = .next u →
      u = { s with fm := u.fm, mem := u.mem, slots := u.slots, draws := u.draws, allocScript := u.allocScript } := by
    intro u hu
    obtain ⟨-, rfl⟩ | ⟨-, m, d, l, rfl, -, -⟩ := memWrite_eq_next hu <;> rfl
  cases wb <;> simp only [writeBack, andThen_eq_next, Host.Outcome.next.injEq] at h
  case none => subst h; rfl
  case ac => subst h; rfl
  case mem => exact hm h
  case both => obtain ⟨u, hu, rfl⟩ := h; rw [hm hu]; rfl
  case self =>
    obtain ⟨u, hu, rfl⟩ := h
    rw [hm hu]
    split <;> rfl
  case acNz => subst h; split <;> rfl

/-- A write-back that does not write memory leaves memory and slots. -/
theorem writeBack_register {wb : Wb} {e : Addr} {s t : State} (hw : wb = .none ∨ wb = .ac ∨ wb = .acNz)
    (h : writeBack wb e s = .next t) : t = { s with fm := t.fm } := by
  obtain rfl | rfl | rfl := hw <;> simp only [writeBack, Host.Outcome.next.injEq] at h <;> subst h
  · rfl
  · rfl
  · split <;> rfl

/-- Wherever a write-back writes memory, it does so by `memWrite`; what comes after changes FM alone. -/
theorem writeBack_memory {wb : Wb} {e : Addr} {s t : State} (hw : wb = .mem ∨ wb = .both ∨ wb = .self)
    (h : writeBack wb e s = .next t) :
    ∃ u, memWrite e s.ar s = .next u ∧ (t = u ∨ (wb ≠ .mem ∧ (wb = .self → u.ac ≠ 0) ∧ t = u.setFm u.ac u.ar)) := by
  obtain rfl | rfl | rfl := hw <;> simp only [writeBack, andThen_eq_next, Host.Outcome.next.injEq] at h
  · exact ⟨t, h, .inl rfl⟩
  · obtain ⟨u, hu, rfl⟩ := h
    exact ⟨u, hu, .inr ⟨by simp, by simp, rfl⟩⟩
  · obtain ⟨u, hu, rfl⟩ := h
    by_cases hz : u.ac = 0
    · exact ⟨u, hu, .inl (if_pos hz)⟩
    · exact ⟨u, hu, .inr ⟨by simp, fun _ => hz, if_neg hz⟩⟩

/-- A write-back fails only in its write to memory, which comes first. -/
theorem writeBack_eq_fault {wb : Wb} {e : Addr} {s : State} {f : Fault} (h : writeBack wb e s = .fault f) :
    (wb = .mem ∨ wb = .both ∨ wb = .self) ∧ memWrite e s.ar s = .fault f := by
  cases wb <;> simp only [writeBack, andThen_eq_fault, reduceCtorEq, and_false, exists_false, or_false] at h
  all_goals exact ⟨by simp, h⟩

theorem writeBack_ne_refused {wb : Wb} {e : Addr} {s : State} {f : Refusal} : writeBack wb e s ≠ .refused f := by
  cases wb <;> simp [writeBack, andThen_eq_refused, memWrite_ne_refused]

/-! ## The generic step -/

/-- What a generic step other than a monitor call can do (R125): hang, or run its uops to the end. -/
theorem execGeneric_eq_next {w : Word} {rd : Rd} {op : Op} {cond : BitVec 3} {wb : Wb} {s t : State} (hop : op ≠ .muuo)
    (h : execGeneric w rd op cond wb s = .next t) :
    (eaOf s w = .hang ∧ t = s) ∨
    ∃ e mb u v, eaOf s w = .done e mb ∧ readOperands rd e ((s.latch w).setEa e mb) = .next u ∧
      writeBack wb e (operate op u) = .next v ∧ t = v.setPc (nextPc op cond e u) := by
  unfold execGeneric at h
  cases he : eaOf s w with
  | hang => simp only [he, Host.Outcome.next.injEq] at h; exact .inl ⟨rfl, h.symm⟩
  | fault k mb => simp [he, raise] at h
  | done e mb =>
    simp only [he, operateAndWriteBack, if_neg hop, andThen_eq_next, Host.Outcome.next.injEq] at h
    obtain ⟨u, hu, v, hv, rfl⟩ := h
    exact .inr ⟨e, mb, u, v, rfl, hu, hv, rfl⟩

/-- Where a generic step other than a monitor call can fault (R274, R275): EA calculation, read-operands, write-back. -/
theorem execGeneric_eq_fault {w : Word} {rd : Rd} {op : Op} {cond : BitVec 3} {wb : Wb} {s : State} {f : Fault}
    (hop : op ≠ .muuo) (h : execGeneric w rd op cond wb s = .fault f) :
    (∃ k mb, eaOf s w = .fault k mb ∧ f = .raised k (((s.latch w).setMb mb).setStatus (.fault k))) ∨
    ∃ e mb, eaOf s w = .done e mb ∧
      (readOperands rd e ((s.latch w).setEa e mb) = .fault f ∨
       ∃ u, readOperands rd e ((s.latch w).setEa e mb) = .next u ∧ writeBack wb e (operate op u) = .fault f) := by
  unfold execGeneric at h
  cases he : eaOf s w with
  | hang => simp [he] at h
  | fault k mb => simp only [he, raise, Host.Outcome.fault.injEq] at h; exact .inl ⟨k, mb, rfl, h.symm⟩
  | done e mb =>
    simp only [he, operateAndWriteBack, if_neg hop, andThen_eq_fault, reduceCtorEq, and_false, exists_false, or_false] at h
    exact .inr ⟨e, mb, rfl, h⟩

theorem execGeneric_ne_refused {w : Word} {rd : Rd} {op : Op} {cond : BitVec 3} {wb : Wb} {s : State} {f : Refusal}
    (hop : op ≠ .muuo) : execGeneric w rd op cond wb s ≠ .refused f := by
  unfold execGeneric
  cases he : eaOf s w with
  | hang => simp
  | fault k mb => simp [raise]
  | done e mb =>
    simp only [operateAndWriteBack, if_neg hop, ne_eq, andThen_eq_refused, reduceCtorEq, and_false, exists_false, or_false]
    rintro (h | ⟨u, -, h⟩)
    · exact readOperands_ne_refused h
    · exact writeBack_ne_refused h

/-- What a monitor call's step can do: hang, or hand off and end with the service's state. -/
theorem execMuuo_eq_next {w : Word} {cond : BitVec 3} {s t : State} (h : execGeneric w .none .muuo cond .none s = .next t) :
    (eaOf s w = .hang ∧ t = s) ∨ ∃ e mb, eaOf s w = .done e mb ∧ muuoCall w e ((s.latch w).setEa e mb) = .next t := by
  unfold execGeneric at h
  cases he : eaOf s w with
  | hang => simp only [he, Host.Outcome.next.injEq] at h; exact .inl ⟨rfl, h.symm⟩
  | fault k mb => simp [he, raise] at h
  | done e mb =>
    simp only [he, readOperands, andThen_next, operateAndWriteBack, if_true, andThen_eq_next, writeBack, ite_self,
      Host.Outcome.next.injEq] at h
    obtain ⟨u, hu, rfl⟩ := h
    exact .inr ⟨e, mb, rfl, hu⟩

/-! ## Every instruction is a selection -/

/-- The selection holds the word that it was decoded from. -/
@[simp] theorem dec_word (c : Config) (w : Word) : (dec c w).word = w := by
  unfold dec
  repeat' split
  all_goals rfl

theorem gated_cases (g : Gate) (w : Word) (m : State → Result) (s : State) :
    (g.admits s.config = true ∧ gated g w m s = m s) ∨
    (g.admits s.config = false ∧ gated g w m s = execRefuse w .notAdmitted s) := by
  unfold gated
  cases h : g.admits s.config <;> simp

end Sys2Proof.Machine
end

