-- ==== Sys2Proof/Laws/Exec.lean ====
section
/-! SUPPORT. Every instruction as a choice of uops: the 80 meanings have three shapes, so a proof about every instruction is one
about three shapes. Then the reads across the updates of a step, and the step of a shape from what its reads give. -/

namespace Sys2Proof.Machine

/-- The shape of a meaning. -/
inductive Shape where
  | uops (g : Gate) (rd : Rd) (op : Op) (cond : BitVec 3) (wb : Wb)
  | fast (y : Addr)
  | refused (r : Reason)
  deriving DecidableEq, Repr

/-- The shape of each instruction's meaning. -/
def shapeOf : Instr → Shape
  | .blki _ => .refused .unlisted
  | .datai _ => .refused .ioUnspecified
  | .blko _ => .refused .unlisted
  | .datao _ => .refused .ioUnspecified
  | .cono _ => .refused .ioUnspecified
  | .coni _ => .refused .ioUnspecified
  | .consz _ => .refused .unlisted
  | .conso _ => .refused .unlisted
  | .dotIot _ => .uops .open .none .muuo 0 .none
  | .dotOpen _ => .uops .open .none .muuo 0 .none
  | .dotOper _ => .uops .open .none .muuo 0 .none
  | .dotCall _ => .uops .open .none .muuo 0 .none
  | .dotUset _ => .uops .open .none .muuo 0 .none
  | .dotBreak _ => .uops .open .none .muuo 0 .none
  | .dotStatus _ => .uops .open .none .muuo 0 .none
  | .dotAccess _ => .uops .open .none .muuo 0 .none
  | .muuo050 _ => .uops .open .none .muuo 0 .none
  | .muuo051 _ => .uops .open .none .muuo 0 .none
  | .muuo052 _ => .uops .open .none .muuo 0 .none
  | .muuo053 _ => .uops .open .none .muuo 0 .none
  | .muuo054 _ => .uops .open .none .muuo 0 .none
  | .muuo055 _ => .uops .open .none .muuo 0 .none
  | .muuo056 _ => .uops .open .none .muuo 0 .none
  | .muuo057 _ => .uops .open .none .muuo 0 .none
  | .muuo060 _ => .uops .open .none .muuo 0 .none
  | .muuo061 _ => .uops .open .none .muuo 0 .none
  | .muuo062 _ => .uops .open .none .muuo 0 .none
  | .muuo063 _ => .uops .open .none .muuo 0 .none
  | .muuo064 _ => .uops .open .none .muuo 0 .none
  | .muuo065 _ => .uops .open .none .muuo 0 .none
  | .muuo066 _ => .uops .open .none .muuo 0 .none
  | .muuo067 _ => .uops .open .none .muuo 0 .none
  | .muuo070 _ => .uops .open .none .muuo 0 .none
  | .muuo071 _ => .uops .open .none .muuo 0 .none
  | .muuo072 _ => .uops .open .none .muuo 0 .none
  | .muuo073 _ => .uops .open .none .muuo 0 .none
  | .muuo074 _ => .uops .open .none .muuo 0 .none
  | .muuo075 _ => .uops .open .none .muuo 0 .none
  | .muuo076 _ => .uops .open .none .muuo 0 .none
  | .muuo077 _ => .uops .open .none .muuo 0 .none
  | .jsys _ => .uops .open .none .muuo 0 .none
  | .xctri _ => .refused .xctrUnspecified
  | .xctr _ => .refused .xctrUnspecified
  | .exch _ => .refused .exchUnspecified
  | .jrstFast y => .fast y
  | .jrst _ _ _ => .uops .open .none .jrst 0 .none
  | .jrstAc _ => .refused .jrstAcNonzero
  | .move _ => .uops .open .mem .pass 0 .ac
  | .movei _ => .uops .open .imm .pass 1 .ac
  | .movem _ => .uops .open .ac .pass 2 .mem
  | .moves _ => .uops .modeVariants .mem .pass 3 .self
  | .movn _ => .uops .open .mem .neg 0 .ac
  | .movni _ => .uops .modeVariants .imm .neg 1 .ac
  | .movnm _ => .uops .modeVariants .ac .neg 2 .mem
  | .movns _ => .uops .modeVariants .mem .neg 3 .self
  | .add _ => .uops .open .acMem .add 0 .ac
  | .addi _ => .uops .open .acImm .add 1 .ac
  | .addm _ => .uops .modeVariants .acMem .add 2 .mem
  | .addb _ => .uops .modeVariants .acMem .add 3 .both
  | .sub _ => .uops .open .acMem .sub 4 .ac
  | .subi _ => .uops .modeVariants .acImm .sub 5 .ac
  | .subm _ => .uops .modeVariants .acMem .sub 6 .mem
  | .subb _ => .uops .modeVariants .acMem .sub 7 .both
  | .jump _ => .uops .cmpClass .ac .jump 0 .none
  | .jumpl _ => .uops .open .ac .jump 1 .none
  | .jumpe _ => .uops .cmpClass .ac .jump 2 .none
  | .jumple _ => .uops .cmpClass .ac .jump 3 .none
  | .jumpa _ => .uops .cmpClass .ac .jump 4 .none
  | .jumpge _ => .uops .cmpClass .ac .jump 5 .none
  | .jumpn _ => .uops .cmpClass .ac .jump 6 .none
  | .jumpg _ => .uops .cmpClass .ac .jump 7 .none
  | .skip _ => .uops .cmpClass .mem .skip 0 .acNz
  | .skipl _ => .uops .open .mem .skip 1 .acNz
  | .skipe _ => .uops .cmpClass .mem .skip 2 .acNz
  | .skiple _ => .uops .cmpClass .mem .skip 3 .acNz
  | .skipa _ => .uops .cmpClass .mem .skip 4 .acNz
  | .skipge _ => .uops .cmpClass .mem .skip 5 .acNz
  | .skipn _ => .uops .cmpClass .mem .skip 6 .acNz
  | .skipg _ => .uops .cmpClass .mem .skip 7 .acNz
  | .unlisted _ => .refused .unlisted

/-- The meaning that a shape stands for. -/
def Shape.run (sh : Shape) (w : Word) (s : State) : Result :=
  match sh with
  | .uops g rd op cond wb => gated g w (execGeneric w rd op cond wb) s
  | .fast y => execFast w y s
  | .refused r => execRefuse w r s

/-- Every instruction is run by its shape. -/
theorem exec_eq_shape (i : Instr) (s : State) : exec i s = (shapeOf i).run (encode i) s := by
  cases i <;> rfl

/-! ## Reads across the updates -/

variable (s : State)

@[simp] theorem State.fmAt_latch (w : Word) (i : AcNum) : (s.latch w).fmAt i = s.fmAt i := rfl
@[simp] theorem State.memGet_latch (w : Word) (a : Addr) : (s.latch w).memGet a = s.memGet a := rfl
@[simp] theorem State.slotAt_latch (w : Word) (a : Addr) : (s.latch w).slotAt a = s.slotAt a := rfl
@[simp] theorem aliasesFm_latch (w : Word) (a : Addr) : aliasesFm (s.latch w) a = aliasesFm s a := rfl
@[simp] theorem readFm_latch (w : Word) (i : AcNum) : readFm (s.latch w) i = readFm s i := rfl
@[simp] theorem memRead_latch (w : Word) (a : Addr) : memRead (s.latch w) a = memRead s a := rfl
@[simp] theorem State.fmAt_setEa (e : Addr) (mb : Word) (i : AcNum) : (s.setEa e mb).fmAt i = s.fmAt i := rfl
@[simp] theorem State.memGet_setEa (e : Addr) (mb : Word) (a : Addr) : (s.setEa e mb).memGet a = s.memGet a := rfl
@[simp] theorem State.slotAt_setEa (e : Addr) (mb : Word) (a : Addr) : (s.setEa e mb).slotAt a = s.slotAt a := rfl
@[simp] theorem aliasesFm_setEa (e : Addr) (mb : Word) (a : Addr) : aliasesFm (s.setEa e mb) a = aliasesFm s a := rfl
@[simp] theorem readFm_setEa (e : Addr) (mb : Word) (i : AcNum) : readFm (s.setEa e mb) i = readFm s i := rfl
@[simp] theorem memRead_setEa (e : Addr) (mb : Word) (a : Addr) : memRead (s.setEa e mb) a = memRead s a := rfl
@[simp] theorem State.fmAt_setAr (v : Word) (i : AcNum) : (s.setAr v).fmAt i = s.fmAt i := rfl
@[simp] theorem State.memGet_setAr (v : Word) (a : Addr) : (s.setAr v).memGet a = s.memGet a := rfl
@[simp] theorem State.slotAt_setAr (v : Word) (a : Addr) : (s.setAr v).slotAt a = s.slotAt a := rfl
@[simp] theorem aliasesFm_setAr (v : Word) (a : Addr) : aliasesFm (s.setAr v) a = aliasesFm s a := rfl
@[simp] theorem readFm_setAr (v : Word) (i : AcNum) : readFm (s.setAr v) i = readFm s i := rfl
@[simp] theorem memRead_setAr (v : Word) (a : Addr) : memRead (s.setAr v) a = memRead s a := rfl
@[simp] theorem State.fmAt_setBr (v : Word) (i : AcNum) : (s.setBr v).fmAt i = s.fmAt i := rfl
@[simp] theorem State.memGet_setBr (v : Word) (a : Addr) : (s.setBr v).memGet a = s.memGet a := rfl
@[simp] theorem State.slotAt_setBr (v : Word) (a : Addr) : (s.setBr v).slotAt a = s.slotAt a := rfl
@[simp] theorem aliasesFm_setBr (v : Word) (a : Addr) : aliasesFm (s.setBr v) a = aliasesFm s a := rfl
@[simp] theorem readFm_setBr (v : Word) (i : AcNum) : readFm (s.setBr v) i = readFm s i := rfl
@[simp] theorem memRead_setBr (v : Word) (a : Addr) : memRead (s.setBr v) a = memRead s a := rfl
@[simp] theorem State.fmAt_drawFlags (i : AcNum) : (s.drawFlags).fmAt i = s.fmAt i := rfl
@[simp] theorem State.memGet_drawFlags (a : Addr) : (s.drawFlags).memGet a = s.memGet a := rfl
@[simp] theorem State.slotAt_drawFlags (a : Addr) : (s.drawFlags).slotAt a = s.slotAt a := rfl
@[simp] theorem aliasesFm_drawFlags (a : Addr) : aliasesFm (s.drawFlags) a = aliasesFm s a := rfl
@[simp] theorem readFm_drawFlags (i : AcNum) : readFm (s.drawFlags) i = readFm s i := rfl
@[simp] theorem memRead_drawFlags (a : Addr) : memRead (s.drawFlags) a = memRead s a := rfl

variable {s : State}

theorem readFm_of_some {i : AcNum} {v : Word} (h : s.fmAt i = some v) : readFm s i = .ok v := by simp [readFm, h]

theorem readFm_of_none {i : AcNum} (h : s.fmAt i = none) : readFm s i = .error (.undefinedRegister i) := by simp [readFm, h]

/-- An address that reads holds a word that a write can reach. -/
theorem reached_of_memRead {a : Addr} {v : Word} (h : memRead s a = .ok v) :
    aliasesFm s a = true ∨ ∃ u, s.memGet a = some u := by
  obtain h | ⟨-, h⟩ := memRead_ok h
  · exact .inl h
  · exact .inr ⟨_, h⟩

/-! ## Read-operands, from what its reads give -/

theorem calcEA_succ (n : Nat) (s : State) (w mb : Word) :
    calcEA (n + 1) s w mb =
      match indexed s w with
      | .error k => .fault k mb
      | .ok e =>
        if indOf w then
          match memRead s e with
          | .error k => .fault k mb
          | .ok w' => calcEA n s w' w'
        else .done e mb := rfl

variable {w : Word} {e : Addr} {mb : Word}

theorem readOperands_mem_of_ok {v : Word} (h : memRead s e = .ok v) :
    readOperands .mem e ((s.latch w).setEa e mb) = .next (((s.latch w).setEa e mb).setAr v) := by
  simp [readOperands, h, withRead]

theorem readOperands_mem_of_error {k : FaultKind} (h : memRead s e = .error k) :
    readOperands .mem e ((s.latch w).setEa e mb) = raise k ((s.latch w).setEa e mb) := by
  simp [readOperands, h, withRead]

theorem readOperands_ac_of_some {v : Word} (h : s.fmAt (acOf w) = some v) :
    readOperands .ac e ((s.latch w).setEa e mb) = .next (((s.latch w).setEa e mb).setAr v) := by
  simp [readOperands, readFm_of_some h, withRead]

theorem readOperands_acMem_of_ok {u v : Word} (h : s.fmAt (acOf w) = some u) (hm : memRead s e = .ok v) :
    readOperands .acMem e ((s.latch w).setEa e mb) = .next ((((s.latch w).setEa e mb).setAr u).setBr v) := by
  simp [readOperands, readFm_of_some h, hm, withRead]

theorem readOperands_acMem_of_error {u : Word} {k : FaultKind} (h : s.fmAt (acOf w) = some u)
    (hm : memRead s e = .error k) :
    readOperands .acMem e ((s.latch w).setEa e mb) = raise k (((s.latch w).setEa e mb).setAr u) := by
  simp [readOperands, readFm_of_some h, hm, withRead]

theorem readOperands_acImm_of_some {u : Word} (h : s.fmAt (acOf w) = some u) :
    readOperands .acImm e ((s.latch w).setEa e mb) = .next ((((s.latch w).setEa e mb).setAr u).setBr (zext36 e)) := by
  simp [readOperands, readFm_of_some h, withRead]

/-- On an accumulator that holds ⊥, the uops that read it first end the run (R136). -/
theorem readOperands_of_none {rd : Rd} (hr : rd = .ac ∨ rd = .acMem ∨ rd = .acImm) (h : s.fmAt (acOf w) = none) :
    readOperands rd e ((s.latch w).setEa e mb) = raise (.undefinedRegister (acOf w)) ((s.latch w).setEa e mb) := by
  obtain rfl | rfl | rfl := hr <;> simp [readOperands, readFm_of_none h, withRead]

/-! ## The step of a shape -/

theorem execGeneric_of_done {rd : Rd} {op : Op} {cond : BitVec 3} {wb : Wb} {u : State}
    (hop : op ≠ .muuo) (he : eaOf s w = .done e mb) (hr : readOperands rd e ((s.latch w).setEa e mb) = .next u) :
    execGeneric w rd op cond wb s =
      andThen (writeBack wb e (operate op u)) fun t => .next (t.setPc (nextPc op cond e u)) := by
  simp [execGeneric, he, hr, operateAndWriteBack, hop]

theorem execGeneric_of_fault {rd : Rd} {op : Op} {cond : BitVec 3} {wb : Wb} {x : Fault}
    (he : eaOf s w = .done e mb) (hr : readOperands rd e ((s.latch w).setEa e mb) = .fault x) :
    execGeneric w rd op cond wb s = .fault x := by
  simp [execGeneric, he, hr, andThen]

/-- A monitor call's step is the call, and what its reply gives. -/
theorem execGeneric_muuo {cond : BitVec 3} (he : eaOf s w = .done e mb) :
    execGeneric w .none .muuo cond .none s = muuoCall w e ((s.latch w).setEa e mb) := by
  simp only [execGeneric, he, readOperands, andThen_next, operateAndWriteBack, if_true, writeBack, ite_self]
  cases muuoCall w e ((s.latch w).setEa e mb) <;> rfl

end Sys2Proof.Machine
end

