-- ==== Sys2Proof/Laws/PerInstr.lean ====
section
/-! SUPPORT. Per instruction: the encoded word matches the instruction's row of spec/opcode_table.json (its `match` under its
`mask`). -/

namespace Sys2Proof.Laws.RowMatch

/-- The row's mask and match, from the columns `mask_octal` and `match_octal` of spec/opcode_table.json. -/
def row : Instr → Word × Word
  | .blki _ => (0o700340000000, 0o700000000000)
  | .datai _ => (0o700340000000, 0o700040000000)
  | .blko _ => (0o700340000000, 0o700100000000)
  | .datao _ => (0o700340000000, 0o700140000000)
  | .cono _ => (0o700340000000, 0o700200000000)
  | .coni _ => (0o700340000000, 0o700240000000)
  | .consz _ => (0o700340000000, 0o700300000000)
  | .conso _ => (0o700340000000, 0o700340000000)
  | .dotIot _ => (0o777000000000, 0o040000000000)
  | .dotOpen _ => (0o777000000000, 0o041000000000)
  | .dotOper _ => (0o777000000000, 0o042000000000)
  | .dotCall _ => (0o777000000000, 0o043000000000)
  | .dotUset _ => (0o777000000000, 0o044000000000)
  | .dotBreak _ => (0o777000000000, 0o045000000000)
  | .dotStatus _ => (0o777000000000, 0o046000000000)
  | .dotAccess _ => (0o777000000000, 0o047000000000)
  | .muuo050 _ => (0o777000000000, 0o050000000000)
  | .muuo051 _ => (0o777000000000, 0o051000000000)
  | .muuo052 _ => (0o777000000000, 0o052000000000)
  | .muuo053 _ => (0o777000000000, 0o053000000000)
  | .muuo054 _ => (0o777000000000, 0o054000000000)
  | .muuo055 _ => (0o777000000000, 0o055000000000)
  | .muuo056 _ => (0o777000000000, 0o056000000000)
  | .muuo057 _ => (0o777000000000, 0o057000000000)
  | .muuo060 _ => (0o777000000000, 0o060000000000)
  | .muuo061 _ => (0o777000000000, 0o061000000000)
  | .muuo062 _ => (0o777000000000, 0o062000000000)
  | .muuo063 _ => (0o777000000000, 0o063000000000)
  | .muuo064 _ => (0o777000000000, 0o064000000000)
  | .muuo065 _ => (0o777000000000, 0o065000000000)
  | .muuo066 _ => (0o777000000000, 0o066000000000)
  | .muuo067 _ => (0o777000000000, 0o067000000000)
  | .muuo070 _ => (0o777000000000, 0o070000000000)
  | .muuo071 _ => (0o777000000000, 0o071000000000)
  | .muuo072 _ => (0o777000000000, 0o072000000000)
  | .muuo073 _ => (0o777000000000, 0o073000000000)
  | .muuo074 _ => (0o777000000000, 0o074000000000)
  | .muuo075 _ => (0o777000000000, 0o075000000000)
  | .muuo076 _ => (0o777000000000, 0o076000000000)
  | .muuo077 _ => (0o777000000000, 0o077000000000)
  | .jsys _ => (0o777000000000, 0o104000000000)
  | .xctri _ => (0o777000000000, 0o102000000000)
  | .xctr _ => (0o777000000000, 0o103000000000)
  | .exch _ => (0o777000000000, 0o250000000000)
  | .jrstFast _ => (0o777777000000, 0o254000000000)
  | .jrst _ _ _ => (0o777740000000, 0o254000000000)
  | .jrstAc _ => (0o777000000000, 0o254000000000)
  | .move _ => (0o777000000000, 0o200000000000)
  | .movei _ => (0o777000000000, 0o201000000000)
  | .movem _ => (0o777000000000, 0o202000000000)
  | .moves _ => (0o777000000000, 0o203000000000)
  | .movn _ => (0o777000000000, 0o210000000000)
  | .movni _ => (0o777000000000, 0o211000000000)
  | .movnm _ => (0o777000000000, 0o212000000000)
  | .movns _ => (0o777000000000, 0o213000000000)
  | .add _ => (0o777000000000, 0o270000000000)
  | .addi _ => (0o777000000000, 0o271000000000)
  | .addm _ => (0o777000000000, 0o272000000000)
  | .addb _ => (0o777000000000, 0o273000000000)
  | .sub _ => (0o777000000000, 0o274000000000)
  | .subi _ => (0o777000000000, 0o275000000000)
  | .subm _ => (0o777000000000, 0o276000000000)
  | .subb _ => (0o777000000000, 0o277000000000)
  | .jump _ => (0o777000000000, 0o320000000000)
  | .jumpl _ => (0o777000000000, 0o321000000000)
  | .jumpe _ => (0o777000000000, 0o322000000000)
  | .jumple _ => (0o777000000000, 0o323000000000)
  | .jumpa _ => (0o777000000000, 0o324000000000)
  | .jumpge _ => (0o777000000000, 0o325000000000)
  | .jumpn _ => (0o777000000000, 0o326000000000)
  | .jumpg _ => (0o777000000000, 0o327000000000)
  | .skip _ => (0o777000000000, 0o330000000000)
  | .skipl _ => (0o777000000000, 0o331000000000)
  | .skipe _ => (0o777000000000, 0o332000000000)
  | .skiple _ => (0o777000000000, 0o333000000000)
  | .skipa _ => (0o777000000000, 0o334000000000)
  | .skipge _ => (0o777000000000, 0o335000000000)
  | .skipn _ => (0o777000000000, 0o336000000000)
  | .skipg _ => (0o777000000000, 0o337000000000)
  | .unlisted _ => (0, 0)

/-- The word of a well-formed instruction matches its row. -/
def Statement (i : Instr) : Prop := i.wf = true → encode i &&& (row i).1 = (row i).2

theorem blki (f : IoFields) : Statement (.blki f) := fun _ => (assembleIo_and_fnMask 0 f).trans rfl
theorem datai (f : IoFields) : Statement (.datai f) := fun _ => (assembleIo_and_fnMask 1 f).trans rfl
theorem blko (f : IoFields) : Statement (.blko f) := fun _ => (assembleIo_and_fnMask 2 f).trans rfl
theorem datao (f : IoFields) : Statement (.datao f) := fun _ => (assembleIo_and_fnMask 3 f).trans rfl
theorem cono (f : IoFields) : Statement (.cono f) := fun _ => (assembleIo_and_fnMask 4 f).trans rfl
theorem coni (f : IoFields) : Statement (.coni f) := fun _ => (assembleIo_and_fnMask 5 f).trans rfl
theorem consz (f : IoFields) : Statement (.consz f) := fun _ => (assembleIo_and_fnMask 6 f).trans rfl
theorem conso (f : IoFields) : Statement (.conso f) := fun _ => (assembleIo_and_fnMask 7 f).trans rfl
theorem dotIot (f : Basic) : Statement (.dotIot f) := fun _ => (assemble_and_opMask 0o040 f).trans rfl
theorem dotOpen (f : Basic) : Statement (.dotOpen f) := fun _ => (assemble_and_opMask 0o041 f).trans rfl
theorem dotOper (f : Basic) : Statement (.dotOper f) := fun _ => (assemble_and_opMask 0o042 f).trans rfl
theorem dotCall (f : Basic) : Statement (.dotCall f) := fun _ => (assemble_and_opMask 0o043 f).trans rfl
theorem dotUset (f : Basic) : Statement (.dotUset f) := fun _ => (assemble_and_opMask 0o044 f).trans rfl
theorem dotBreak (f : Basic) : Statement (.dotBreak f) := fun _ => (assemble_and_opMask 0o045 f).trans rfl
theorem dotStatus (f : Basic) : Statement (.dotStatus f) := fun _ => (assemble_and_opMask 0o046 f).trans rfl
theorem dotAccess (f : Basic) : Statement (.dotAccess f) := fun _ => (assemble_and_opMask 0o047 f).trans rfl
theorem muuo050 (f : Basic) : Statement (.muuo050 f) := fun _ => (assemble_and_opMask 0o050 f).trans rfl
theorem muuo051 (f : Basic) : Statement (.muuo051 f) := fun _ => (assemble_and_opMask 0o051 f).trans rfl
theorem muuo052 (f : Basic) : Statement (.muuo052 f) := fun _ => (assemble_and_opMask 0o052 f).trans rfl
theorem muuo053 (f : Basic) : Statement (.muuo053 f) := fun _ => (assemble_and_opMask 0o053 f).trans rfl
theorem muuo054 (f : Basic) : Statement (.muuo054 f) := fun _ => (assemble_and_opMask 0o054 f).trans rfl
theorem muuo055 (f : Basic) : Statement (.muuo055 f) := fun _ => (assemble_and_opMask 0o055 f).trans rfl
theorem muuo056 (f : Basic) : Statement (.muuo056 f) := fun _ => (assemble_and_opMask 0o056 f).trans rfl
theorem muuo057 (f : Basic) : Statement (.muuo057 f) := fun _ => (assemble_and_opMask 0o057 f).trans rfl
theorem muuo060 (f : Basic) : Statement (.muuo060 f) := fun _ => (assemble_and_opMask 0o060 f).trans rfl
theorem muuo061 (f : Basic) : Statement (.muuo061 f) := fun _ => (assemble_and_opMask 0o061 f).trans rfl
theorem muuo062 (f : Basic) : Statement (.muuo062 f) := fun _ => (assemble_and_opMask 0o062 f).trans rfl
theorem muuo063 (f : Basic) : Statement (.muuo063 f) := fun _ => (assemble_and_opMask 0o063 f).trans rfl
theorem muuo064 (f : Basic) : Statement (.muuo064 f) := fun _ => (assemble_and_opMask 0o064 f).trans rfl
theorem muuo065 (f : Basic) : Statement (.muuo065 f) := fun _ => (assemble_and_opMask 0o065 f).trans rfl
theorem muuo066 (f : Basic) : Statement (.muuo066 f) := fun _ => (assemble_and_opMask 0o066 f).trans rfl
theorem muuo067 (f : Basic) : Statement (.muuo067 f) := fun _ => (assemble_and_opMask 0o067 f).trans rfl
theorem muuo070 (f : Basic) : Statement (.muuo070 f) := fun _ => (assemble_and_opMask 0o070 f).trans rfl
theorem muuo071 (f : Basic) : Statement (.muuo071 f) := fun _ => (assemble_and_opMask 0o071 f).trans rfl
theorem muuo072 (f : Basic) : Statement (.muuo072 f) := fun _ => (assemble_and_opMask 0o072 f).trans rfl
theorem muuo073 (f : Basic) : Statement (.muuo073 f) := fun _ => (assemble_and_opMask 0o073 f).trans rfl
theorem muuo074 (f : Basic) : Statement (.muuo074 f) := fun _ => (assemble_and_opMask 0o074 f).trans rfl
theorem muuo075 (f : Basic) : Statement (.muuo075 f) := fun _ => (assemble_and_opMask 0o075 f).trans rfl
theorem muuo076 (f : Basic) : Statement (.muuo076 f) := fun _ => (assemble_and_opMask 0o076 f).trans rfl
theorem muuo077 (f : Basic) : Statement (.muuo077 f) := fun _ => (assemble_and_opMask 0o077 f).trans rfl
theorem jsys (f : Basic) : Statement (.jsys f) := fun _ => (assemble_and_opMask 0o104 f).trans rfl
theorem xctri (f : Basic) : Statement (.xctri f) := fun _ => (assemble_and_opMask 0o102 f).trans rfl
theorem xctr (f : Basic) : Statement (.xctr f) := fun _ => (assemble_and_opMask 0o103 f).trans rfl
theorem exch (f : Basic) : Statement (.exch f) := fun _ => (assemble_and_opMask 0o250 f).trans rfl

/-- A JRST word with AC 0 has the bits of AC clear, whatever the address fields. -/
theorem jrstMask (ind : Bool) (x : AcNum) (y : Addr) :
    assemble 0o254 ⟨0, ind, x, y⟩ &&& 0o777740000000 = 0o254000000000 := by
  have hm : (0o777740000000 : Word) = BitVec.allOnes 9 ++ BitVec.allOnes 4 ++ 0#23 := by decide
  have ha : assemble 0o254 ⟨0, ind, x, y⟩ = (0o254 : BitVec 9) ++ (0 : BitVec 4) ++ ((BitVec.ofBool ind ++ x ++ y : BitVec 23)) := by
    apply BitVec.eq_of_getLsbD_eq
    intro k hk
    unfold assemble
    simp only [BitVec.getLsbD_append]
    grind
  rw [hm, ha, BitVec.and_append, BitVec.and_append, BitVec.and_allOnes, BitVec.and_allOnes, BitVec.and_zero]
  decide

theorem jrstFast (y : Addr) : Statement (.jrstFast y) := by
  intro _
  have hm : (0o777777000000 : Word) = BitVec.allOnes 18 ++ 0#18 := by decide
  have ha : assemble 0o254 ⟨0, false, 0, y⟩ = (0o254000#18 : BitVec 18) ++ y := by
    apply BitVec.eq_of_getLsbD_eq
    intro k hk
    have h0 : (0o254000#18 : BitVec 18) = (0o254 : BitVec 9) ++ (0 : BitVec 4) ++ BitVec.ofBool false ++ (0 : BitVec 4) := by decide
    unfold assemble
    rw [h0]
  show assemble 0o254 ⟨0, false, 0, y⟩ &&& 0o777777000000 = 0o254000000000
  rw [hm, ha, BitVec.and_append, BitVec.and_allOnes, BitVec.and_zero]
  rfl

theorem jrst (ind : Bool) (x : AcNum) (y : Addr) : Statement (.jrst ind x y) := fun _ => jrstMask ind x y

theorem jrstAc (f : Basic) : Statement (.jrstAc f) := fun _ => (assemble_and_opMask 0o254 f).trans rfl

theorem move (f : Basic) : Statement (.move f) := fun _ => (assemble_and_opMask 0o200 f).trans rfl
theorem movei (f : Basic) : Statement (.movei f) := fun _ => (assemble_and_opMask 0o201 f).trans rfl
theorem movem (f : Basic) : Statement (.movem f) := fun _ => (assemble_and_opMask 0o202 f).trans rfl
theorem moves (f : Basic) : Statement (.moves f) := fun _ => (assemble_and_opMask 0o203 f).trans rfl
theorem movn (f : Basic) : Statement (.movn f) := fun _ => (assemble_and_opMask 0o210 f).trans rfl
theorem movni (f : Basic) : Statement (.movni f) := fun _ => (assemble_and_opMask 0o211 f).trans rfl
theorem movnm (f : Basic) : Statement (.movnm f) := fun _ => (assemble_and_opMask 0o212 f).trans rfl
theorem movns (f : Basic) : Statement (.movns f) := fun _ => (assemble_and_opMask 0o213 f).trans rfl
theorem add (f : Basic) : Statement (.add f) := fun _ => (assemble_and_opMask 0o270 f).trans rfl
theorem addi (f : Basic) : Statement (.addi f) := fun _ => (assemble_and_opMask 0o271 f).trans rfl
theorem addm (f : Basic) : Statement (.addm f) := fun _ => (assemble_and_opMask 0o272 f).trans rfl
theorem addb (f : Basic) : Statement (.addb f) := fun _ => (assemble_and_opMask 0o273 f).trans rfl
theorem sub (f : Basic) : Statement (.sub f) := fun _ => (assemble_and_opMask 0o274 f).trans rfl
theorem subi (f : Basic) : Statement (.subi f) := fun _ => (assemble_and_opMask 0o275 f).trans rfl
theorem subm (f : Basic) : Statement (.subm f) := fun _ => (assemble_and_opMask 0o276 f).trans rfl
theorem subb (f : Basic) : Statement (.subb f) := fun _ => (assemble_and_opMask 0o277 f).trans rfl
theorem jump (f : Basic) : Statement (.jump f) := fun _ => (assemble_and_opMask 0o320 f).trans rfl
theorem jumpl (f : Basic) : Statement (.jumpl f) := fun _ => (assemble_and_opMask 0o321 f).trans rfl
theorem jumpe (f : Basic) : Statement (.jumpe f) := fun _ => (assemble_and_opMask 0o322 f).trans rfl
theorem jumple (f : Basic) : Statement (.jumple f) := fun _ => (assemble_and_opMask 0o323 f).trans rfl
theorem jumpa (f : Basic) : Statement (.jumpa f) := fun _ => (assemble_and_opMask 0o324 f).trans rfl
theorem jumpge (f : Basic) : Statement (.jumpge f) := fun _ => (assemble_and_opMask 0o325 f).trans rfl
theorem jumpn (f : Basic) : Statement (.jumpn f) := fun _ => (assemble_and_opMask 0o326 f).trans rfl
theorem jumpg (f : Basic) : Statement (.jumpg f) := fun _ => (assemble_and_opMask 0o327 f).trans rfl
theorem skip (f : Basic) : Statement (.skip f) := fun _ => (assemble_and_opMask 0o330 f).trans rfl
theorem skipl (f : Basic) : Statement (.skipl f) := fun _ => (assemble_and_opMask 0o331 f).trans rfl
theorem skipe (f : Basic) : Statement (.skipe f) := fun _ => (assemble_and_opMask 0o332 f).trans rfl
theorem skiple (f : Basic) : Statement (.skiple f) := fun _ => (assemble_and_opMask 0o333 f).trans rfl
theorem skipa (f : Basic) : Statement (.skipa f) := fun _ => (assemble_and_opMask 0o334 f).trans rfl
theorem skipge (f : Basic) : Statement (.skipge f) := fun _ => (assemble_and_opMask 0o335 f).trans rfl
theorem skipn (f : Basic) : Statement (.skipn f) := fun _ => (assemble_and_opMask 0o336 f).trans rfl
theorem skipg (f : Basic) : Statement (.skipg f) := fun _ => (assemble_and_opMask 0o337 f).trans rfl

theorem unlisted (w : Word) : Statement (.unlisted w) := fun _ => by simp [row]

end Sys2Proof.Laws.RowMatch
end

