-- ==== Sys2Proof/Laws/Safety.lean ====
section
/-! SUPPORT. The small lemmas of the relation `SameButHidden`. -/

namespace Sys2Proof.Machine

theorem SameButHidden.refl (s : State) : SameButHidden s s := rfl

/-- Any values of the hidden registers give such a state. -/
theorem sameButHidden_with (s : State) (flags : BitVec 18) (ac : AcNum) (ir ar br mq ma mb : Word) :
    SameButHidden s
      { s with flags := flags, ac := ac, ir := ir, ar := ar, br := br, mq := mq, ma := ma, mb := mb } := rfl

/-- No claim can tell two such states apart (10_state.md R39). -/
theorem SameButHidden.sameObs {s t : State} (h : SameButHidden s t) : SameObs s t := by
  rw [h]
  exact ⟨rfl, rfl, fun _ => rfl, rfl⟩

end Sys2Proof.Machine
end

