-- ==== Sys2Proof/Tests/Slice0.lean ====
section
/-! SUPPORT. The model's own tests: the checks of WellFormed, the decoding of written-out words, vectors of
spec/95_test_vectors.md (the section is named at each), one step each, and for every statement with hypotheses a witness that
meets them. -/

namespace Sys2Proof.Tests

open Machine Claims

/-! ## WellFormed refuses -/

theorem test_wf_refuses_generic_jrst_of_a_fast_word : (Instr.jrst false 0 0o500).wf = false := by decide
theorem test_wf_refuses_jrstAc_with_ac_zero : (Instr.jrstAc ⟨0, true, 2, 0o500⟩).wf = false := by decide
theorem test_wf_refuses_unlisted_of_a_named_opcode : (Instr.unlisted 0o200040000100).wf = false := by decide
theorem test_wf_refuses_unlisted_of_an_io_word : (Instr.unlisted 0o700000000000).wf = false := by decide
theorem test_wf_refuses_unlisted_of_a_gated_opcode : (Instr.unlisted 0o337040000200).wf = false := by decide
theorem test_wf_admits : (Instr.jrst true 0 0o500).wf ∧ (Instr.jrst false 2 0).wf ∧ (Instr.jrstAc ⟨4, false, 0, 0⟩).wf ∧
    (Instr.unlisted 0o350000000000).wf := by decide

/-! ## Decoding: words written out from 30_encoding.md R81, R82, R86 and R87 -/

/-- Every pair's word decodes to its instruction. -/
def decodes (l : List (Word × Instr)) : Bool := l.all fun p => decide (decode p.1 = p.2)

theorem test_decode_io : decodes
    [(0o700000000000, .blki ⟨0, false, 0, 0⟩), (0o700040000000, .datai ⟨0, false, 0, 0⟩),
     (0o700100000000, .blko ⟨0, false, 0, 0⟩), (0o700140000000, .datao ⟨0, false, 0, 0⟩),
     (0o700200000000, .cono ⟨0, false, 0, 0⟩), (0o700240000000, .coni ⟨0, false, 0, 0⟩),
     (0o700300000000, .consz ⟨0, false, 0, 0⟩), (0o700340000000, .conso ⟨0, false, 0, 0⟩),
     (0o777637000017, .cono ⟨0o177, true, 0o17, 0o17⟩)] = true := by decide

theorem test_decode_monitor_calls : decodes
    [(0o040000000000, .dotIot ⟨0, false, 0, 0⟩), (0o041040000001, .dotOpen ⟨1, false, 0, 1⟩),
     (0o042100000002, .dotOper ⟨2, false, 0, 2⟩), (0o043020000500, .dotCall ⟨0, true, 0, 0o500⟩),
     (0o044001000004, .dotUset ⟨0, false, 1, 4⟩), (0o045740000005, .dotBreak ⟨15, false, 0, 5⟩),
     (0o046000000006, .dotStatus ⟨0, false, 0, 6⟩), (0o047000777777, .dotAccess ⟨0, false, 0, 0o777777⟩),
     (0o104000000000, .jsys ⟨0, false, 0, 0⟩)] = true := by decide

theorem test_decode_muuo : decodes
    [(0o050000000001, .muuo050 ⟨0, false, 0, 1⟩), (0o051000000001, .muuo051 ⟨0, false, 0, 1⟩),
     (0o052000000001, .muuo052 ⟨0, false, 0, 1⟩), (0o053000000001, .muuo053 ⟨0, false, 0, 1⟩),
     (0o054000000001, .muuo054 ⟨0, false, 0, 1⟩), (0o055000000001, .muuo055 ⟨0, false, 0, 1⟩),
     (0o056000000001, .muuo056 ⟨0, false, 0, 1⟩), (0o057000000001, .muuo057 ⟨0, false, 0, 1⟩),
     (0o060000000001, .muuo060 ⟨0, false, 0, 1⟩), (0o061000000001, .muuo061 ⟨0, false, 0, 1⟩),
     (0o062000000001, .muuo062 ⟨0, false, 0, 1⟩), (0o063000000001, .muuo063 ⟨0, false, 0, 1⟩),
     (0o064000000001, .muuo064 ⟨0, false, 0, 1⟩), (0o065000000001, .muuo065 ⟨0, false, 0, 1⟩),
     (0o066000000001, .muuo066 ⟨0, false, 0, 1⟩), (0o067000000001, .muuo067 ⟨0, false, 0, 1⟩),
     (0o070000000001, .muuo070 ⟨0, false, 0, 1⟩), (0o071000000001, .muuo071 ⟨0, false, 0, 1⟩),
     (0o072000000001, .muuo072 ⟨0, false, 0, 1⟩), (0o073000000001, .muuo073 ⟨0, false, 0, 1⟩),
     (0o074000000001, .muuo074 ⟨0, false, 0, 1⟩), (0o075000000001, .muuo075 ⟨0, false, 0, 1⟩),
     (0o076000000001, .muuo076 ⟨0, false, 0, 1⟩), (0o077040000000, .muuo077 ⟨1, false, 0, 0⟩)] = true := by decide

theorem test_decode_unspecified : decodes
    [(0o102000000100, .xctri ⟨0, false, 0, 0o100⟩), (0o103000000000, .xctr ⟨0, false, 0, 0⟩),
     (0o250040000100, .exch ⟨1, false, 0, 0o100⟩), (0o000000000000, .unlisted 0), (0o037040000000, .unlisted 0o037040000000),
     (0o220000000000, .unlisted 0o220000000000)] = true := by decide

theorem test_decode_move : decodes
    [(0o200040000100, .move ⟨1, false, 0, 0o100⟩), (0o201042777777, .movei ⟨1, false, 2, 0o777777⟩),
     (0o202100000101, .movem ⟨2, false, 0, 0o101⟩), (0o203100000100, .moves ⟨2, false, 0, 0o100⟩),
     (0o210140000202, .movn ⟨3, false, 0, 0o202⟩), (0o211040000001, .movni ⟨1, false, 0, 1⟩),
     (0o212040000100, .movnm ⟨1, false, 0, 0o100⟩), (0o213000000100, .movns ⟨0, false, 0, 0o100⟩)] = true := by decide

theorem test_decode_add_sub : decodes
    [(0o270040000030, .add ⟨1, false, 0, 0o30⟩), (0o271040000003, .addi ⟨1, false, 0, 3⟩),
     (0o272040000200, .addm ⟨1, false, 0, 0o200⟩), (0o273040000200, .addb ⟨1, false, 0, 0o200⟩),
     (0o274040000753, .sub ⟨1, false, 0, 0o753⟩), (0o275040000001, .subi ⟨1, false, 0, 1⟩),
     (0o276040000200, .subm ⟨1, false, 0, 0o200⟩), (0o277040000200, .subb ⟨1, false, 0, 0o200⟩)] = true := by decide

theorem test_decode_jrst : decodes
    [(0o254000001234, .jrstFast 0o1234), (0o254020000500, .jrst true 0 0o500), (0o254002000000, .jrst false 2 0),
     (0o254200000000, .jrstAc ⟨4, false, 0, 0⟩), (0o254120000000, .jrstAc ⟨2, true, 0, 0⟩)] = true := by decide

theorem test_decode_jump : decodes
    [(0o320040000500, .jump ⟨1, false, 0, 0o500⟩), (0o321060000500, .jumpl ⟨1, true, 0, 0o500⟩),
     (0o322040000500, .jumpe ⟨1, false, 0, 0o500⟩), (0o323040000500, .jumple ⟨1, false, 0, 0o500⟩),
     (0o324040000500, .jumpa ⟨1, false, 0, 0o500⟩), (0o325040000500, .jumpge ⟨1, false, 0, 0o500⟩),
     (0o326040000500, .jumpn ⟨1, false, 0, 0o500⟩), (0o327040000500, .jumpg ⟨1, false, 0, 0o500⟩)] = true := by decide

theorem test_decode_skip : decodes
    [(0o330040000100, .skip ⟨1, false, 0, 0o100⟩), (0o331300000752, .skipl ⟨6, false, 0, 0o752⟩),
     (0o332000000000, .skipe ⟨0, false, 0, 0⟩), (0o333040000100, .skiple ⟨1, false, 0, 0o100⟩),
     (0o334040000200, .skipa ⟨1, false, 0, 0o200⟩), (0o335040000100, .skipge ⟨1, false, 0, 0o100⟩),
     (0o336040000100, .skipn ⟨1, false, 0, 0o100⟩), (0o337040000200, .skipg ⟨1, false, 0, 0o200⟩)] = true := by decide

theorem test_decode_rejects_a_37_bit_number : decodeNat (2 ^ 36) = .error .badWord ∧ decodeTableWord 36 (2 ^ 36) = none := by
  decide

theorem test_decode_table_word : decodeTableWord 36 0o200040000100 = some (.move ⟨1, false, 0, 0o100⟩) := by decide

/-! ## The selections of 95_test_vectors.md section 2.1 -/

/-- Both gates on. -/
def gatesOn : Config := ⟨.separate, true, true, [], []⟩

theorem test_dec_default_parameters :
    dec defaultConfig 0o000000000000 = .refuse 0 .unlisted ∧
    dec defaultConfig 0o040000000000 = .generic 0o040000000000 .none .muuo 0 .none ∧
    dec defaultConfig 0o254000001234 = .fastJump 0o254000001234 0o1234 ∧
    dec defaultConfig 0o254020000500 = .generic 0o254020000500 .none .jrst 0 .none ∧
    dec defaultConfig 0o274040000100 = .generic 0o274040000100 .acMem .sub 4 .ac ∧
    dec defaultConfig 0o331040000100 = .generic 0o331040000100 .mem .skip 1 .acNz ∧
    dec defaultConfig 0o203040000100 = .refuse 0o203040000100 .notAdmitted ∧
    dec defaultConfig 0o320040000000 = .refuse 0o320040000000 .notAdmitted ∧
    dec defaultConfig 0o704200000000 = .refuse 0o704200000000 .ioUnspecified ∧
    dec defaultConfig 0o777777777777 = .refuse 0o777777777777 .unlisted := by decide

theorem test_dec_gates_on :
    dec gatesOn 0o203040000100 = .generic 0o203040000100 .mem .pass 3 .self ∧
    dec gatesOn 0o332000000000 = .generic 0o332000000000 .mem .skip 2 .acNz := by decide

theorem test_codes_refused_and_taken :
    Sel.ofCodes ⟨0, 6, 0, 0, 0, 0, 0, 0⟩ = none ∧ Sel.ofCodes ⟨0, 5, 7, 7, 5, 5, 0, 0⟩ ≠ none ∧
    Sel.ofCodes ⟨3, 0, 0, 0, 0, 0, 0, 0⟩ = none ∧ Slot.ofCodes 3 ⟨0, 0, 0, 0, 0, 0, 0, 0⟩ = none := by decide

/-! ## One step of a small machine -/

/-- A running machine with both gates on: accumulators (⊥ where none is given), memory words each in an area of its own, PC. -/
def machine (pc : Addr) (fm : List (AcNum × Word)) (mem : List (Nat × Word)) : State :=
  serviceFm fm
    { State.resetUnwritten with
      pc := pc, started := true, config := gatesOn, mem := mem.map fun p => ⟨p.1, 0, [p.2]⟩, allocScript := [false] }

/-- The same with operand addresses below 16 aliased to the accumulators. -/
def aliased (s : State) : State := { s with config := ⟨.aliased, true, true, [], []⟩ }

/-- One step of the word `w` at PC. -/
def one (w : Nat) (s : State) : Result := step (s.withFetchWord 36 w)

/-- The next state's view, where there is one. -/
def view {α : Type} (r : Result) (f : State → α) : Option α :=
  match r with
  | .next s => some (f s)
  | .fault _ => none
  | .refused _ => none

/-- PC and accumulator 1 of the next state. -/
def pcAc1 (r : Result) : Option (Addr × Option Word) := view r fun s => (s.pc, s.fmAt 1)

/-- PC, accumulator 1 and the word at 0200 of the next state. -/
def pcAc1Mem (r : Result) : Option (Addr × Option Word × Option Word) := view r fun s => (s.pc, s.fmAt 1, s.memGet 0o200)

/-- The fault kind. -/
def faultOf (r : Result) : Option FaultKind :=
  match r with
  | .fault (.raised k _) => some k
  | .fault (.stuck _) => none
  | .next _ => none
  | .refused _ => none

/-- The refusal's reason. -/
def reasonOf (r : Result) : Option RefuseReason :=
  match r with
  | .refused (.declined k _) => some k
  | .refused _ => none
  | .next _ => none
  | .fault _ => none

/-! ### Section 2.3, MOVE family -/

theorem test_move : pcAc1 (one 0o200040000200 (machine 0o100 [] [(0o200, 0o123)])) = some (0o101, some 0o123) := by decide
theorem test_move_unmapped : faultOf (one 0o200040000200 (machine 0o100 [] [])) = some (.unmapped 0o200 .read) := by decide
theorem test_movei_index_wraps : pcAc1 (one 0o201042777777 (machine 0o100 [(2, 2)] [])) = some (0o101, some 1) := by decide
theorem test_movei_low_half_of_index :
    pcAc1 (one 0o201042000010 (machine 0o100 [(2, 0o777777000005)] [])) = some (0o101, some 0o15) := by decide
theorem test_movem_own_word :
    view (one 0o202040000100 (machine 0o100 [(1, 0o201100000007)] [])) (fun s => (s.pc, s.memGet 0o100, s.slotAt 0o100)) =
      some (0o101, some 0o201100000007, .stub) := by decide
theorem test_movem_undefined : faultOf (one 0o202040000300 (machine 0o100 [] [])) = some (.undefinedRegister 1) := by decide
theorem test_moves :
    view (one 0o203100000200 (machine 0o100 [] [(0o200, 5)])) (fun s => (s.fmAt 2, s.memGet 0o200, s.slotAt 0o200)) =
      some (some 5, some 5, .stub) := by decide
theorem test_movn_most_negative :
    pcAc1 (one 0o210040000200 (machine 0o100 [] [(0o200, 0o400000000000)])) = some (0o101, some 0o400000000000) := by decide
theorem test_movn_one :
    pcAc1 (one 0o210040000200 (machine 0o100 [] [(0o200, 1)])) = some (0o101, some 0o777777777777) := by decide
theorem test_movni : pcAc1 (one 0o211040777777 (machine 0o100 [] [])) = some (0o101, some 0o777777000001) := by decide
theorem test_movnm :
    pcAc1Mem (one 0o212040000200 (machine 0o100 [(1, 2)] [(0o200, 9)])) = some (0o101, some 2, some 0o777777777776) := by decide
theorem test_movns_ac_zero :
    view (one 0o213000000200 (machine 0o100 [] [(0o200, 3)])) (fun s => (s.fmAt 0, s.memGet 0o200)) =
      some (none, some 0o777777777775) := by decide

/-! ### Section 1 V1.3: three indirect levels -/

theorem test_indirect_chain :
    pcAc1 (one 0o201062002000 (machine 0o1000 [(2, 0o10), (3, 0o20)]
      [(0o2010, 0o000023003000), (0o3020, 0o000020004000), (0o4000, 0o000002005000)])) = some (0o1001, some 0o5010) := by decide

/-! ### Section 2.4, ADD and SUB families -/

theorem test_add_wraps :
    pcAc1 (one 0o270040000200 (machine 0o100 [(1, 0o777777777777)] [(0o200, 1)])) = some (0o101, some 0) := by decide
theorem test_add_undefined_before_unmapped :
    faultOf (one 0o270040000200 (machine 0o100 [] [])) = some (.undefinedRegister 1) := by decide
theorem test_addi_never_negative :
    pcAc1 (one 0o271040777777 (machine 0o100 [(1, 0)] [])) = some (0o101, some 0o777777) := by decide
theorem test_sub_borrows :
    pcAc1 (one 0o274040000200 (machine 0o100 [(1, 3)] [(0o200, 5)])) = some (0o101, some 0o777777777776) := by decide
theorem test_sub_overflow :
    pcAc1 (one 0o274040000200 (machine 0o100 [(1, 0o400000000000)] [(0o200, 1)])) = some (0o101, some 0o377777777777) := by
  decide
theorem test_addm :
    pcAc1Mem (one 0o272040000200 (machine 0o100 [(1, 2)] [(0o200, 3)])) = some (0o101, some 2, some 5) := by decide
theorem test_addb :
    pcAc1Mem (one 0o273040000200 (machine 0o100 [(1, 2)] [(0o200, 3)])) = some (0o101, some 5, some 5) := by decide
theorem test_subi : pcAc1 (one 0o275040000001 (machine 0o100 [(1, 0)] [])) = some (0o101, some 0o777777777777) := by decide
theorem test_subm :
    pcAc1Mem (one 0o276040000200 (machine 0o100 [(1, 5)] [(0o200, 3)])) = some (0o101, some 5, some 2) := by decide
theorem test_subb :
    pcAc1Mem (one 0o277040000200 (machine 0o100 [(1, 5)] [(0o200, 3)])) = some (0o101, some 2, some 2) := by decide
theorem test_addm_gate_off :
    reasonOf (one 0o272040000200 { machine 0o100 [(1, 2)] [(0o200, 3)] with config := defaultConfig }) =
      some (.instr .notAdmitted) := by decide

/-! ### Section 2.5, JUMP, SKIP and JRST -/

/-- Where the eight conditions of the table hold, as bits 7 (G) to 0 (never). -/
def conds (v : Word) : List Bool := [7, 6, 5, 4, 3, 2, 1, 0].map fun c => condHolds c v

theorem test_condition_table :
    conds 0 = [false, false, true, true, true, true, false, false] ∧
    conds 1 = [true, true, true, true, false, false, false, false] ∧
    conds 0o377777777777 = [true, true, true, true, false, false, false, false] ∧
    conds 0o400000000000 = [false, true, false, true, true, false, true, false] ∧
    conds 0o777777777777 = [false, true, false, true, true, false, true, false] := by decide

theorem test_jump_never : pcAc1 (one 0o320040000500 (machine 0o100 [(1, 0)] [])) = some (0o101, some 0) := by decide
theorem test_jumpl_taken :
    view (one 0o321040000500 (machine 0o100 [(1, 0o400000000000)] [])) (·.pc) = some 0o500 := by decide
theorem test_jumpl_wraps : view (one 0o321040000500 (machine 0o777777 [(1, 0)] [])) (·.pc) = some 0 := by decide
theorem test_jumpl_computes_e_when_not_taken :
    faultOf (one 0o321060000500 (machine 0o100 [(1, 0)] [])) = some (.unmapped 0o500 .read) := by decide
theorem test_jumpe : view (one 0o322040000500 (machine 0o100 [(1, 0)] [])) (·.pc) = some 0o500 := by decide
theorem test_jumple :
    view (one 0o323040000500 (machine 0o100 [(1, 0o777777777777)] [])) (·.pc) = some 0o500 := by decide
theorem test_jumpa : view (one 0o324040000500 (machine 0o100 [(1, 7)] [])) (·.pc) = some 0o500 := by decide
theorem test_jumpa_undefined : faultOf (one 0o324040000500 (machine 0o100 [] [])) = some (.undefinedRegister 1) := by decide
theorem test_jumpge : view (one 0o325040000500 (machine 0o100 [(1, 0)] [])) (·.pc) = some 0o500 := by decide
theorem test_jumpn :
    view (one 0o326040000500 (machine 0o100 [(1, 0o400000000000)] [])) (·.pc) = some 0o500 := by decide
theorem test_jumpg :
    view (one 0o327040000500 (machine 0o100 [(1, 0o400000000000)] [])) (·.pc) = some 0o101 := by decide
theorem test_skip_never : pcAc1 (one 0o330040000200 (machine 0o100 [] [(0o200, 5)])) = some (0o101, some 5) := by decide
theorem test_skipl_wraps_ac_zero :
    view (one 0o331000000200 (machine 0o777777 [] [(0o200, 0o400000000000)])) (fun s => (s.pc, s.fmAt 0)) = some (1, none) := by
  decide
theorem test_skipl_positive :
    pcAc1 (one 0o331040000200 (machine 0o100 [] [(0o200, 0o377777777777)])) = some (0o101, some 0o377777777777) := by decide
theorem test_skipe : pcAc1 (one 0o332040000200 (machine 0o100 [] [(0o200, 0)])) = some (0o102, some 0) := by decide
theorem test_skiple : pcAc1 (one 0o333040000200 (machine 0o100 [] [(0o200, 1)])) = some (0o101, some 1) := by decide
theorem test_skipa : pcAc1 (one 0o334040000200 (machine 0o100 [] [(0o200, 7)])) = some (0o102, some 7) := by decide
theorem test_skipge : pcAc1 (one 0o335040000200 (machine 0o100 [] [(0o200, 0)])) = some (0o102, some 0) := by decide
theorem test_skipn : pcAc1 (one 0o336040000200 (machine 0o100 [] [(0o200, 0)])) = some (0o101, some 0) := by decide
theorem test_skipg :
    pcAc1 (one 0o337040000200 (machine 0o100 [] [(0o200, 0o400000000000)])) = some (0o101, some 0o400000000000) := by decide
theorem test_jrst_fast : view (one 0o254000000000 (machine 3 [] [])) (·.pc) = some 0 := by decide
theorem test_jrst_indirect : view (one 0o254020000500 (machine 0o100 [] [(0o500, 0o1234)])) (·.pc) = some 0o1234 := by decide
theorem test_jrst_indexed :
    view (one 0o254002000000 (machine 0o100 [(2, 0o777777000017)] [])) (·.pc) = some 0o17 := by decide
theorem test_halt_refused_before_ea : reasonOf (one 0o254220000500 (machine 0o100 [] [])) = some (.instr .jrstAcNonzero) := by
  decide

/-! ### Section 2.6, monitor calls and refused words -/

/-- The machine with the call of `w` at `e` laid down as number 7, and number 7 as the service `v` or as none. -/
def called (v : Option ItsService) (w : Word) (e : Addr) (s : State) : State :=
  { s with config := { s.config with calls := [((w, e), 7)], services := [(7, v)] } }

/-- The machine with the call of `w` at `e` laid down as `.OPEN`, and its reply. -/
def served (w : Word) (e : Addr) (r : ServiceReply) (s : State) : State :=
  { called (some .dotOpen) w e s with serviceScript := [r] }

theorem test_call_continues :
    view (one 0o043000000200 (served 0o043000000200 0o200 (.cont ⟨[], [(0o200, 7)], [(1, 9)], none, 0o321⟩)
      (machine 0o100 [] [(0o200, 0)])))
      (fun s => (s.pc, s.fmAt 1, s.memGet 0o200, s.slotAt 0o200)) = some (0o321, some 9, some 7, .stub) := by decide
theorem test_logout_exits :
    view (one 0o043000000200 (called (some .dotLogout) 0o043000000200 0o200 (machine 0o100 [] []))) (·.status) = some .exit := by
  decide
theorem test_call_unimplemented :
    faultOf (one 0o077040000000 (called none 0o077040000000 0 (machine 0o100 [] []))) = some (.muuoUnimplemented 7) := by
  decide
theorem test_service_turns_away :
    faultOf (one 0o077040000000 (served 0o077040000000 0 (.fault .unimplemented) (machine 0o100 [] []))) =
      some (.muuoUnimplemented 7) := by decide
theorem test_call_ea_fault_before_service :
    faultOf (one 0o043020000500 (machine 0o100 [] [])) = some (.unmapped 0o500 .read) := by decide
theorem test_host_inside_service :
    view (one 0o040000000000 (served 0o040000000000 0 (.cont ⟨[.addMemory 0o300 [5], .unpurePage 0o300], [], [], none, 0o101⟩)
      (machine 0o100 [] []))) (fun s => (s.pc, s.memGet 0o300)) = some (0o101, some 5) := by decide +kernel
theorem test_run_inside_service_refused :
    reasonOf (one 0o104000000000 (served 0o104000000000 0 (.cont ⟨[.run 0 []], [], [], none, 0⟩) (machine 0o100 [] []))) = some .runTwice := by
  decide
theorem test_exch_refused : reasonOf (one 0o250040000100 (machine 0o100 [] [])) = some (.instr .exchUnspecified) := by decide
theorem test_io_refused :
    [0o700000000000, 0o700040000000, 0o700100000000, 0o700140000000, 0o700200000000, 0o700240000000, 0o700300000000,
      0o700340000000].map (fun w => reasonOf (one w (machine 0o100 [] []))) =
    [some (.instr .unlisted), some (.instr .ioUnspecified), some (.instr .unlisted), some (.instr .ioUnspecified),
      some (.instr .ioUnspecified), some (.instr .ioUnspecified), some (.instr .unlisted), some (.instr .unlisted)] := by decide
theorem test_xctr_refused :
    [0o102000000100, 0o103000000000, 0].map (fun w => reasonOf (one w (machine 0o100 [] []))) =
    [some (.instr .xctrUnspecified), some (.instr .xctrUnspecified), some (.instr .unlisted)] := by decide

/-! ### Section 2.7, the alias -/

theorem test_move_aliased :
    pcAc1 (one 0o200040000002 (aliased (machine 0o100 [(2, 9)] [(2, 4)]))) = some (0o101, some 9) := by decide
theorem test_move_separate : pcAc1 (one 0o200040000002 (machine 0o100 [(2, 9)] [(2, 4)])) = some (0o101, some 4) := by decide
theorem test_movem_aliased :
    view (one 0o202040000002 (aliased { machine 0o100 [(1, 6)] [(2, 4)] with slots := [(2, .unmapped)] }))
      (fun s => (s.fmAt 2, s.memGet 2, s.slotAt 2)) = some (some 6, some 4, .unmapped) := by decide

/-! ### Sections 2.2 and 2.8: slots and host operations -/

theorem test_stub_decodes :
    view (step (machine 0o100 [] [(0o100, 0o200040000200)])) (fun s => (s.pc, s.slotAt 0o100)) =
      some (0o100, .decoded (.generic 0o200040000200 .mem .pass 0 .ac)) := by decide
theorem test_stub_unmapped : faultOf (step (machine 0o101 [] [])) = some (.unmapped 0o101 .fetch) := by decide
theorem test_unmapped_slot_faults :
    faultOf (step { machine 0o100 [] [(0o100, 0o200040000200)] with slots := [(0o100, .unmapped)] }) =
      some (.unmapped 0o100 .fetch) := by decide
theorem test_stale_slot_runs_its_old_word :
    pcAc1 (step { machine 0o100 [(1, 5)] [(0o100, 0o270040000200), (0o200, 5)] with
      slots := [(0o100, .decoded (dec gatesOn 0o200040000200))] }) = some (0o101, some 5) := by decide

/-- The word and the view of a host operation's result. -/
def hostView {α : Type} (r : HostResult) (f : State → α) : Option (α × HostReply) :=
  match r with
  | .next (s, w) => some (f s, w)
  | .fault _ => none
  | .refused _ => none

/-- Why a host operation is refused. -/
def hostReason (r : HostResult) : Option RefuseReason :=
  match r with
  | .refused (.declined k _) => some k
  | .refused _ => none
  | .next _ => none
  | .fault _ => none

theorem test_pure_page_decodes :
    hostView (hostStep (.purePage 5) (machine 0 [] [(0o100, 0o200040000200)])) (fun s => (s.slotAt 0o100, s.slotAt 0o101)) =
      some ((.decoded (.generic 0o200040000200 .mem .pass 0 .ac), .stub), .done) := by decide +kernel
theorem test_unmapped_page_edges :
    hostView (hostStep (.unmappedPage 0) (machine 0 [] [])) (fun s => (s.slotAt 0, s.slotAt 0o1777, s.slotAt 0o2000)) =
      some ((.unmapped, .unmapped, .stub), .done) := by decide +kernel
theorem test_set_word_at_makes_an_area :
    hostView (hostStep (.setWordAt 0o400 5) (machine 0 [] [])) (fun s => s.memGet 0o400) = some (some 5, .done) := by decide
theorem test_add_memory_duplicate :
    hostView (hostStep (.addMemory 0o400 [1, 2]) (machine 0 [] [(0o400, 5)])) (fun s => s.memGet 0o400) =
      some (some 5, .duplicate) := by decide
theorem test_add_memory_refused :
    hostReason (hostStep (.addMemory 0o777777 [1, 2]) (machine 0 [] [])) = some .areaOverlap ∧
    hostReason (hostStep (.addMemory 0o500 []) (machine 0 [] [])) = some .areaOverlap ∧
    hostReason (hostStep (.addMemory 0o76 [1, 2, 3, 4]) (machine 0 [] [(0o100, 7)])) = some .areaOverlap := by decide
theorem test_add_memory_out_of_memory :
    hostView (hostStep (.addMemory 0o76 [1]) { machine 0 [] [] with allocScript := [true] }) (fun s => s.memGet 0o76) =
      some (none, .outOfMemory) := by decide
theorem test_iteration :
    hostView (hostStep .getNext { machine 0 [] [(0o100, 7), (0o101, 8), (0o200, 9)] with cursor := some 0o101 }) (·.cursor) =
      some (some 0o200, .word (some 9)) ∧
    hostView (hostStep .getNext { machine 0 [] [(0o100, 7)] with cursor := some 0o100 }) (·.cursor) =
      some (some 0o100, .word none) := by decide
theorem test_run_twice : hostReason (hostStep (.run 0 []) (machine 0 [] [])) = some .runTwice := by decide
theorem test_run_starts : hostView (hostStep (.run 0o1000020 []) State.reset) (·.pc) = some (0o20, .done) := by decide
theorem test_reset_accumulator_reads_zero :
    view (one 0o270040000000 State.reset) (·.fmAt 1) = some (some 0o270040000000) := by decide
theorem test_unwritten_accumulator_faults :
    faultOf (one 0o270040000000 State.resetUnwritten) = some (.undefinedRegister 1) := by decide
theorem test_step_before_run_refused : step State.reset = .refused .notStarted := by rfl

/-! ## Witnesses: for every statement with hypotheses, states and operands that meet them, clause by clause -/

/-- Accumulator 1 holds 5, and 0200 holds 3. -/
def full : State := machine 0o100 [(1, 5)] [(0o200, 3)]

/-- Accumulator 1 holds ⊥, and 0200 holds 3. -/
def noAc : State := machine 0o100 [] [(0o200, 3)]

/-- Accumulator 1 holds 5, and 0200 is unmapped. -/
def noMem : State := machine 0o100 [(1, 5)] []

/-- AC = 1 and the address 0200. -/
def at200 : Basic := ⟨1, false, 0, 0o200⟩

/-- AC = 0 and the address 0200. -/
def zero200 : Basic := ⟨0, false, 0, 0o200⟩

/-- AC = 1 and the address 1, which the alias sends to accumulator 1. -/
def at1 : Basic := ⟨1, false, 0, 1⟩

/-- EA calculation is done, at the address given. -/
def ready (i : Instr) (e : Addr) (s : State) : Bool := eaOf s (encode i) = .done e 0

/-- There is a next state. -/
def goes {α : Type} (r : Host.Outcome α Fault Refusal) : Bool :=
  match r with
  | .next _ => true
  | .fault _ => false
  | .refused _ => false

theorem next_of_goes {α : Type} {r : Host.Outcome α Fault Refusal} (h : goes r = true) : ∃ t, r = .next t := by
  cases r with
  | next t => exact ⟨t, rfl⟩
  | fault _ => cases h
  | refused _ => cases h

theorem raised_of_faultOf {r : Result} {k : FaultKind} (h : faultOf r = some k) : ∃ t, r = .fault (.raised k t) := by
  cases r with
  | next _ => cases h
  | fault x =>
    cases x with
    | raised j t => cases h; exact ⟨t, rfl⟩
    | stuck _ => cases h
  | refused _ => cases h

theorem declined_of_reasonOf {r : Result} {k : RefuseReason} (h : reasonOf r = some k) :
    ∃ t, r = .refused (.declined k t) := by
  cases r with
  | next _ => cases h
  | fault _ => cases h
  | refused x =>
    cases x with
    | declined j t => cases h; exact ⟨t, rfl⟩
    | _ => cases h

theorem witness_DecodeInvertsEncode :
    (Instr.move ⟨15, true, 15, 0o777777⟩).wf ∧ (Instr.jrst true 0 0).wf ∧ (Instr.jrst false 1 0).wf ∧
    (Instr.jrstAc ⟨1, false, 0, 0⟩).wf ∧ (Instr.unlisted 0).wf := by decide

theorem witness_BasicFormatFields : classOf 0o677777777777 ≠ 7 ∧ classOf 0 ≠ 7 := by decide

/-- R113: the words with I = 1 alone, with X ≠ 0 alone, and with neither. -/
theorem witness_FastPathExactly :
    [0o254020000000, 0o254001000000, 0o254000777777].map (fun w => (opOf w, acOf w, indOf w, xOf w)) =
      [(0o254, 0, true, 0), (0o254, 0, false, 1), (0o254, 0, false, 0)] := by decide

/-- R116, R117: a code just used and the first that is not, and a tag that is not. -/
theorem witness_SlotCodes :
    Slot.ofCodes 2 ⟨3, 7, 0, 0, 7, 7, 0, 0⟩ = some .unmapped ∧ Slot.ofCodes 1 ⟨2, 5, 0, 0, 5, 5, 0, 7⟩ =
      some (.decoded (.refuse 7 .jrstAcNonzero)) ∧ Slot.ofCodes 1 ⟨2, 5, 0, 0, 5, 6, 0, 7⟩ = none ∧
    Slot.ofCodes 1 ⟨2, 5, 0, 0, 6, 5, 0, 7⟩ = none ∧ Slot.ofCodes 3 ⟨0, 0, 0, 0, 0, 0, 0, 0⟩ = none := by decide

theorem witness_StepRunsTheDecodedInstruction :
    (live { full with slots := [(0o100, .decoded (dec gatesOn 0o200040000200))] } ∧
      State.slotAt { full with slots := [(0o100, .decoded (dec gatesOn 0o200040000200))] } 0o100 =
        .decoded (dec full.config 0o200040000200)) ∧
    (live { full with pc := 0o200 } ∧ full.slotAt 0o200 = .stub ∧ full.memGet 0o200 = some 3) := by
  simp only [live]; decide

/-- A running machine at 0100 whose slot there holds `v`. -/
def slotted (v : Slot) : State := { full with slots := slotSet [] 0o100 v }

theorem witness_StepFollowsTheSlot :
    [Slot.stub, .unmapped, .decoded (.fastJump 7 0o777777), .decoded (.refuse 7 .unlisted),
      .decoded (.generic 7 .imm .skip 4 .both)].all
      (fun v => (slotted v).slotAt (slotted v).pc = v && (slotted v).status = .running && (slotted v).started) = true := by
  decide

theorem witness_StubDecodesAndUnmappedFaults :
    (full.slotAt 0o100 = .stub ∧ full.memGet 0o100 = none) ∧
    (full.slotAt 0o200 = .stub ∧ full.memGet 0o200 = some 3) ∧ (slotted .unmapped).slotAt 0o100 = .unmapped ∧
    live full ∧ live { full with pc := 0o200 } ∧ live (slotted .unmapped) := by simp only [live]; decide

theorem witness_NoStepUnlessLive :
    (State.reset.status = .running ∧ State.reset.started = false) ∧
    [Status.exit, .fault .outOfMemory, .refused .badWord].all (fun st => { full with status := st }.status ≠ .running) = true := by
  decide

/-- R127, R129: the five clauses, on an index and a sum that wraps. -/
theorem witness_EffectiveAddressLevel :
    (xOf 0o000000777777 = 0 ∧ indOf 0o000000777777 = false) ∧
    (xOf 0o000001777777 = 1 ∧ indOf 0o000001777777 = false ∧ full.fmAt 1 = some 5 ∧ noAc.fmAt 1 = none) ∧
    (xOf 0o000020000100 = 0 ∧ indOf 0o000020000100 = true ∧ memRead full 0o100 = .error (.unmapped 0o100 .read)) ∧
    (xOf 0o000021777777 = 1 ∧ indOf 0o000021777777 = true ∧
      memRead full (BitVec.ofNat 18 ((yOf 0o000021777777).toNat + (5 : Word).toNat)) = .error (.unmapped 4 .read)) := by decide

/-- A word at 0100 that is indirect through itself. -/
def loop : State := machine 0o100 [] [(0o100, 0o254020000100)]

theorem loop_never_ends (n : Nat) (mb : Word) : calcEA n loop 0o254020000100 mb = .hang := by
  induction n generalizing mb with
  | zero => rfl
  | succ n ih =>
    have h1 : indexed loop 0o254020000100 = .ok 0o100 := by decide
    have h2 : memRead loop 0o100 = .ok 0o254020000100 := by decide
    have h3 : indOf 0o254020000100 = true := by decide
    simp only [calcEA_succ, h1, h2, h3, ih, if_true]

theorem witness_IndirectChainUnfolds :
    (indexed loop 0o254020000100 = .ok 0o100 ∧ indOf 0o254020000100 = true ∧ memRead loop 0o100 = .ok 0o254020000100) ∧
    eaOf loop 0o254020000100 = .hang := ⟨by decide, loop_never_ends _ _⟩

theorem witness_EffectiveAddressHangsAndFaults :
    (Instr.jrst true 0 0o100).wf ∧ runsGeneric gatesOn (.jrst true 0 0o100) ∧
    eaOf loop (encode (.jrst true 0 0o100)) = .hang ∧
    eaOf full (encode (.jrst true 0 0o100)) = .fault (.unmapped 0o100 .read) 0 :=
  ⟨by decide, ⟨_, _, _, _, _, rfl⟩, loop_never_ends _ _, by decide⟩

/-- R60: addresses 15 and 16, under both values of the alias. -/
theorem witness_OperandRead :
    (aliased (machine 0 [(15, 8)] [])).config.acAlias = .aliased ∧ (15 : Addr).toNat < 16 ∧ 16 ≤ (16 : Addr).toNat ∧
    (aliased (machine 0 [(15, 8)] [])).fmAt (aliasedAc 15) = some 8 ∧ (aliased full).fmAt (aliasedAc 15) = none ∧
    (aliased (machine 0 [] [(16, 9)])).memGet 16 = some 9 ∧ (aliased full).memGet 16 = none ∧
    full.config.acAlias = .separate ∧ (machine 0 [] [(15, 9)]).memGet 15 = some 9 ∧ full.memGet 15 = none := by decide

theorem witness_StoreThenLoad :
    full.memGet 0o200 = some 3 ∧ full.memGet 0o777777 = none ∧ (drawAlloc full).1 = false ∧
    (drawAlloc { full with allocScript := [true] }).1 = true := by decide

theorem witness_BlockWriteInvalidates :
    (∃ t, memWrite 15 9 (aliased full) = .next t) ∧ aliasesFm (aliased full) 15 = true ∧
    (∃ t, memWrite 16 9 (aliased full) = .next t) ∧ aliasesFm (aliased full) 16 = false :=
  ⟨next_of_goes (by decide), by decide, next_of_goes (by decide), by decide⟩

theorem witness_WrittenWordIsDecodedNext :
    ∃ t, memWrite 0o200 9 (slotted .unmapped) = .next t ∧ aliasesFm (slotted .unmapped) 0o200 = false ∧ live t :=
  ⟨_, rfl, by decide, rfl, rfl⟩

theorem witness_RawHostWriteLeavesTheSlot :
    (∃ t, hostStep (.setWordAt 0o100 9) (slotted (.decoded (.fastJump 7 0))) = .next t) ∧
    (slotted (.decoded (.fastJump 7 0))).pc.toNat = 0o100 ∧
    (slotted (.decoded (.fastJump 7 0))).slotAt 0o100 = .decoded (.fastJump 7 0) ∧ (slotted .stub).started = true :=
  ⟨next_of_goes (by decide), by decide⟩

theorem witness_HostWriteInvalidates :
    (slotted .unmapped).status = .running ∧ (slotted .unmapped).memGet 0o200 = some 3 ∧
    ((slotted .unmapped).memGet 0o777777 = none ∧ (drawAlloc (slotted .unmapped)).1 = false) ∧
    (drawAlloc { full with allocScript := [true] }).1 = true := by decide

/-- R53, R55: two areas that touch; the first and the last address of one, and the addresses around both. -/
theorem witness_AreaFoundIsUnique :
    { full with mem := [⟨2, 0, [7, 8]⟩, ⟨4, 0, [9]⟩] }.status = .running ∧ Memory.wf [⟨2, 0, [7, 8]⟩, ⟨4, 0, [9]⟩] ∧ (Area.mk 2 0 [7, 8]).start ≤ 2 ∧ 3 < (Area.mk 2 0 [7, 8]).stop ∧
    (Area.mk 4 0 [9]).start ≤ 4 ∧ [1, 5].all (fun a => [Area.mk 2 0 [7, 8], ⟨4, 0, [9]⟩].all fun ar =>
      ¬ (ar.start ≤ a ∧ a < ar.stop)) = true := by decide

/-- R57, R58: the error, the three refusals, and an area that ends at the last address, with either draw. -/
theorem witness_AddMemoryRule :
    full.status = .running ∧ full.mem.wf ∧ getWord full.mem 0o200 ≠ none ∧
    (getWord full.mem 0o177 = none ∧ 0o177 ≤ 0o200 ∧ 0o200 < 0o177 + [1, 2].length) ∧
    (getWord full.mem 0o777777 = none ∧ 2 ^ 18 < 0o777777 + [1, 2].length ∧ 0o777777 + [1].length ≤ 2 ^ 18) ∧
    (drawAlloc full).1 = false ∧ (drawAlloc { full with allocScript := [true] }).1 = true := by decide

theorem witness_SlotMaintenance :
    full.status = .running ∧ (0o776000 : Addr).toNat / 1024 = (0o777777 : Addr).toNat / 1024 ∧
    (0o775777 : Addr).toNat / 1024 ≠ (0o777777 : Addr).toNat / 1024 ∧ full.memGet 0o200 = some 3 ∧ full.memGet 0 = none := by
  decide

theorem witness_HostArgumentsChecked :
    full.status = .running ∧ (2 ^ 18 ≤ 2 ^ 18) ∧ (2 ^ 18 - 1 < 2 ^ 18 ∧ 2 ^ 36 ≤ 2 ^ 36) ∧ (∃ x ∈ [1, 2 ^ 36, 2], 2 ^ 36 ≤ x) ∧ (0 : Int) ≠ -1 := by decide

theorem witness_RunSetsPcAndMemory :
    State.reset.status = .running ∧ State.reset.started = false ∧ Memory.wf [⟨0, 0, [1]⟩] ∧ full.started = true := by decide

theorem witness_HostStepWritesNoRegister :
    (∃ t, hostStep (.writeMemory 3 4) (aliased full) = .next t) ∧ (∃ t, hostStep (.run 0 []) State.reset = .next t) ∧
    (∃ t, hostStep .getNext full = .next t) := ⟨next_of_goes (by decide), next_of_goes (by decide), next_of_goes (by decide)⟩

theorem witness_IterationInAddressOrder :
    full.status = .running ∧ full.mem.wf ∧ (∃ t, hostStep .getNext full = .next (t, .word (some 3))) ∧
    (∃ t, hostStep .getNext { full with cursor := some 0o200 } = .next (t, .word none)) :=
  ⟨by decide, by decide, ⟨_, rfl⟩, ⟨_, rfl⟩⟩

/-! ### The result statements: operands ready; an accumulator that holds ⊥; an address that does not read; a store to an
unmapped address and one to an accumulator -/

theorem witness_operands :
    full.fmAt 1 = some 5 ∧ noAc.fmAt 1 = none ∧ noMem.fmAt 1 = some 5 ∧ memRead full 0o200 = .ok 3 ∧
    memRead noAc 0o200 = .ok 3 ∧ memRead noMem 0o200 = .error (.unmapped 0o200 .read) ∧
    (aliasesFm full 0o200 = false ∧ full.memGet 0o200 = some 3) ∧ (aliasesFm noMem 0o200 = false ∧ noMem.memGet 0o200 = none) ∧
    (aliasesFm (aliased full) 1 = true ∧ (aliased full).fmAt 1 = some 5 ∧ memRead (aliased full) 1 = .ok 5) ∧
    full.config.admitModeVariants ∧ full.config.admitCmpClass ∧ noAc.config = full.config ∧ noMem.config = full.config := by
  decide

/-- EA calculation is done in every state of `witness_operands`. -/
def readyAll (g : Basic → Instr) : Bool :=
  ready (g at200) 0o200 full && ready (g at200) 0o200 noAc && ready (g at200) 0o200 noMem && ready (g at1) 1 (aliased full) &&
    ready (g zero200) 0o200 full

theorem witness_MoveAndMoveiLoad : readyAll .move ∧ readyAll .movei := by decide
theorem witness_MovemStoresTheAccumulator : readyAll .movem := by decide
theorem witness_MovesAndMovnsInPlace : readyAll .moves ∧ readyAll .movns := by decide
theorem witness_MovnAndMovniLoadTheNegative : readyAll .movn ∧ readyAll .movni := by decide
theorem witness_MovnmStoresTheNegative : readyAll .movnm := by decide
theorem witness_AddAndSubToTheAccumulator : readyAll .add ∧ readyAll .sub := by decide
theorem witness_AddiAndSubiImmediate : readyAll .addi ∧ readyAll .subi := by decide
theorem witness_AddmAndSubmToMemory : readyAll .addm ∧ readyAll .subm := by decide
theorem witness_AddbAndSubbToBoth : readyAll .addb ∧ readyAll .subb := by decide
theorem witness_JumpFamily :
    readyAll (jumpOf 0) ∧ readyAll (jumpOf 1) ∧ readyAll (jumpOf 2) ∧ readyAll (jumpOf 3) ∧ readyAll (jumpOf 4) ∧
    readyAll (jumpOf 5) ∧ readyAll (jumpOf 6) ∧ readyAll (jumpOf 7) := by decide
theorem witness_SkipFamily :
    readyAll (skipOf 0) ∧ readyAll (skipOf 1) ∧ readyAll (skipOf 2) ∧ readyAll (skipOf 3) ∧ readyAll (skipOf 4) ∧
    readyAll (skipOf 5) ∧ readyAll (skipOf 6) ∧ readyAll (skipOf 7) := by decide

/-- R200: words on which each condition of JUMP and SKIP holds, and words on which it does not. -/
theorem witness_conditions :
    ([(1, 0o400000000000), (2, 0), (3, 0), (4, 0), (5, 0), (6, 1), (7, 1)].all fun p => condHolds p.1 p.2) = true ∧
    ([(0, 0), (1, 0), (2, 1), (3, 1), (5, 0o777777777777), (6, 0), (7, 0)].all fun p => !condHolds p.1 p.2) = true := by decide

theorem witness_JrstJumps : eaOf full (encode (.jrst false 1 0o777777)) = .done 4 0 ∧
    eaOf loop (encode (.jrst true 0 0o100)) = .hang := ⟨by decide, loop_never_ends _ _⟩

theorem witness_FastPathEquivalence :
    opOf 0o254000777777 = 0o254 ∧ acOf 0o254000777777 = 0 ∧ indOf 0o254000777777 = false ∧ xOf 0o254000777777 = 0 := by decide

/-- R241: every monitor call, at an address where EA calculation is done, as each service and as none; and every reply. -/
theorem witness_MonitorCallHandsOff :
    monitorCall at200 (.dotIot at200) ∧ monitorCall at200 (.muuo077 at200) ∧ monitorCall at200 (.jsys at200) ∧
    ((monitorCalls at200).all fun i =>
      ready i 0o200 full && [none, some .dotLogout, some .dotOpen, some .dotSuset, some .dotEval].all fun v =>
        calledService at200 i 0o200 0 (called v (encode i) 0o200 full) = v) = true ∧
    [ServiceReply.cont ⟨[], [], [(1, 2)], some 3, 0⟩, .fault .outOfMemory, .fault (.unmapped 1 .read), .fault .unimplemented,
      .noReturn].all (fun r => (served (encode (.jsys at200)) 0o200 r full).serviceScript = [r]) = true := by
  simp only [monitorCall, monitorCalls]; decide

theorem witness_ServiceChangesOnlyWhatItMay :
    (∃ t, serviceContinue ⟨[], [(0o200, 7), (0o300, 8)], [(1, 9)], none, 0o777777⟩ full = .next t) ∧
    aliasesFm full 0o300 = false := ⟨next_of_goes (by decide), by decide⟩

theorem witness_IoWordsRefused :
    [0o700000000000, 0o700040000000, 0o700100000000, 0o700140000000, 0o700200000000, 0o700240000000, 0o700300000000,
      0o777777777777].map (fun w => (classOf w, fnOf w)) =
      [(7, 0), (7, 1), (7, 2), (7, 3), (7, 4), (7, 5), (7, 6), (7, 7)] := by decide

theorem witness_GatedInstructionsRefused :
    defaultConfig.admitModeVariants = false ∧ defaultConfig.admitCmpClass = false ∧ modeVariant at200 (.moves at200) ∧
    modeVariant at200 (.subb at200) ∧ (0 : BitVec 3) ≠ 1 ∧ (7 : BitVec 3) ≠ 1 := by simp only [modeVariant]; decide

theorem witness_AccumulatorFrame :
    (toAccumulator at200 (.move at200) ∧ ¬ drawsFlags at200 (.move at200) ∧ ∃ t, exec (.move at200) full = .next t) ∧
    (toAccumulator at200 (.sub at200) ∧ ∃ t, exec (.sub at200) full = .next t) :=
  ⟨⟨by simp only [toAccumulator]; decide, by simp only [drawsFlags]; decide, next_of_goes (by decide)⟩,
    by simp only [toAccumulator]; decide, next_of_goes (by decide)⟩

theorem witness_StoreFrame :
    (toMemory at200 (.movem at200) ∧ ¬ drawsFlags at200 (.movem at200) ∧ ∃ t, exec (.movem at200) noMem = .next t) ∧
    (toMemory at1 (.addb at1) ∧ ready (.addb at1) 1 (aliased full) ∧ aliasesFm (aliased full) 1 = true ∧
      ∃ t, exec (.addb at1) (aliased full) = .next t) ∧
    (zero200.ac = 0 ∧ ∃ t, exec (.moves zero200) full = .next t) :=
  ⟨⟨by simp only [toMemory]; decide, by simp only [drawsFlags]; decide, next_of_goes (by decide)⟩,
    ⟨by simp only [toMemory]; decide, by decide, by decide, next_of_goes (by decide)⟩, by decide, next_of_goes (by decide)⟩

theorem witness_JumpSkipFrame :
    (∃ t, exec (jumpOf 3 at200) full = .next t) ∧ (∃ t, exec (skipOf 0 zero200) full = .next t) ∧
    (∃ t, exec (.jrstFast 7) full = .next t) ∧ (∃ t, exec (.jrst true 0 0o200) full = .next t) :=
  ⟨next_of_goes (by decide), next_of_goes (by decide), next_of_goes (by decide), next_of_goes (by decide)⟩

theorem witness_StepKeepsWellFormed :
    ({ full with pc := 0o200 }.Wf ∧ ∃ t, step { full with pc := 0o200 } = .next t) ∧
    (full.Wf ∧ ∃ t, hostStep (.addMemory 0o300 [1]) full = .next t) := by
  refine ⟨⟨?_, next_of_goes (by decide)⟩, ?_, next_of_goes (by decide)⟩ <;> (unfold State.Wf; decide)

/-- A state in lockstep that enters a monitor call, with a reply that keeps it. -/
def callAt100 : State :=
  { served 0o043000000200 0o200 (.cont ⟨[], [], [], none, 0o101⟩) (machine 0o100 [] [(0o100, 0o043000000200)]) with
    slots := [(0o100, .decoded (dec gatesOn 0o043000000200))] }

theorem callAt100_lockstep : callAt100.Lockstep := by
  intro a sel h
  by_cases ha : a = 0o100
  · subst ha
    have h' : callAt100.slotAt 0o100 = .decoded (dec gatesOn 0o043000000200) := by decide
    rw [h'] at h
    cases h
    decide
  · have hne : ¬ 0o100 = a.toNat := fun hc => ha (by apply BitVec.eq_of_toNat_eq; rw [← hc]; rfl)
    simp only [State.slotAt, callAt100, slotGet, if_neg hne] at h
    cases h

theorem witness_StepKeepsLockstep :
    callAt100.Lockstep ∧
    (∀ f w e mb, (replyTo f (decode w) e mb callAt100).keepsLockstep = true) ∧
    callAt100.slotAt callAt100.pc = .decoded (dec callAt100.config 0o043000000200) ∧
    monitorCall ⟨0, false, 0, 0o200⟩ (decode 0o043000000200) ∧ eaOf callAt100 0o043000000200 = .done 0o200 0 ∧
    ∃ t, step callAt100 = .next t :=
  ⟨callAt100_lockstep, fun _ _ _ _ => rfl, by decide, by simp only [monitorCall, monitorCalls]; decide, by decide,
    next_of_goes (by decide)⟩

theorem witness_HostStepKeepsLockstep :
    callAt100.Lockstep ∧ (∃ t, hostStep (.writeMemory 0o100 9) callAt100 = .next t) ∧
    ∃ t, hostStep (.addMemory 0o300 [1]) callAt100 = .next t :=
  ⟨callAt100_lockstep, next_of_goes (by decide), next_of_goes (by decide)⟩

/-- Two states that differ in every hidden register, at a monitor call with a reply laid down. -/
theorem witness_HiddenRegistersDoNotShow :
    SameButHidden callAt100 { callAt100 with flags := 1, ac := 1, ir := 1, ar := 1, br := 1, mq := 1, ma := 1, mb := 1 } ∧
    calledAlike (decode 0o043000000200) callAt100
      { callAt100 with flags := 1, ac := 1, ir := 1, ar := 1, br := 1, mq := 1, ma := 1, mb := 1 } ∧
    (∀ sel, callAt100.slotAt callAt100.pc = .decoded sel → dec callAt100.config sel.word = sel) := by
  refine ⟨rfl, fun f e mb mb' _ he _ => ?_, fun sel h => (callAt100_lockstep _ sel h).2⟩
  have h : eaOf callAt100 (encode (decode 0o043000000200)) = .done 0o200 0 := by decide
  rw [h] at he
  cases he
  exact ⟨rfl, rfl⟩

theorem witness_FaultIsPrecise :
    (∀ f, ¬ monitorCall f (.add at200)) ∧ ∃ t, exec (.add at200) noMem = .fault (.raised (.unmapped 0o200 .read) t) :=
  ⟨fun _ h => by simp [monitorCall, monitorCalls] at h, raised_of_faultOf (by decide)⟩

/-- R274: a fault of EA calculation, of the accumulator, of the operand read and of the allocation. -/
theorem witness_WhichFaults :
    (∃ t, exec (.jrst true 0 0o100) full = .fault (.raised (.unmapped 0o100 .read) t)) ∧
    (∃ t, exec (.movem at200) noAc = .fault (.raised (.undefinedRegister 1) t)) ∧
    (∃ t, exec (.skipl at200) noMem = .fault (.raised (.unmapped 0o200 .read) t)) ∧
    (∃ t, exec (.movem at200) { noMem with allocScript := [true] } = .fault (.raised .outOfMemory t)) :=
  ⟨raised_of_faultOf (by decide), raised_of_faultOf (by decide), raised_of_faultOf (by decide), raised_of_faultOf (by decide)⟩

theorem witness_RefusalKeepsTheState :
    full.status = .running ∧ (∃ t, exec (.exch at200) full = .refused (.declined (.instr .exchUnspecified) t)) ∧
    (∀ f, ¬ monitorCall f (.exch at200)) ∧
    ∃ t, exec (.jsys at200) (served (encode (.jsys at200)) 0o200 (.cont ⟨[.run 0 []], [], [], none, 0⟩) full) = .refused (.declined .runTwice t) :=
  ⟨by decide, declined_of_reasonOf (by decide), fun _ h => by simp [monitorCall, monitorCalls] at h, declined_of_reasonOf (by decide)⟩

theorem witness_ExitOnlyByMonitorCall :
    full.status = .running ∧ (∃ t, exec (.move at200) full = .next t) ∧
    ∃ t, exec (.jsys at200) (called (some .dotLogout) (encode (.jsys at200)) 0o200 full) = .next t :=
  ⟨by decide, next_of_goes (by decide), next_of_goes (by decide)⟩

theorem witness_FlagsAndMqUntouched :
    (∀ f, ¬ monitorCall f (.movem at200)) ∧ (∀ f, ¬ drawsFlags f (.movem at200)) ∧ ∃ t, exec (.movem at200) full = .next t :=
  ⟨fun _ h => by simp [monitorCall, monitorCalls] at h, fun _ h => by simp [drawsFlags] at h, next_of_goes (by decide)⟩

end Sys2Proof.Tests
end

section
/-! PROOFS. Every word is the encoding of the row it decodes to (30_encoding.md R80 to R82). -/

namespace Sys2Proof

open Machine

theorem encode_decodeIo (fn : BitVec 3) (f : IoFields) : encode (decodeIo fn f) = assembleIo fn f := by
  obtain ⟨n, hn⟩ := fn
  interval_cases n <;> rfl

theorem encode_decodeJrst (f : Basic) : encode (decodeJrst f) = assemble 0o254 f := by
  obtain ⟨ac, ind, x, y⟩ := f
  unfold decodeJrst
  split
  · rfl
  next hac =>
    obtain rfl : ac = 0 := by simpa using hac
    split
    next h => obtain ⟨rfl, rfl⟩ : ind = false ∧ x = 0 := h; rfl
    · rfl

theorem encode_decodeBasic (op : BitVec 9) (f : Basic) :
    encode (decodeBasic op.toNat f (assemble op f)) = assemble op f := by
  have hop {n : Nat} (h : op.toNat = n) : op = BitVec.ofNat 9 n := by rw [← h, BitVec.ofNat_toNat, BitVec.setWidth_eq]
  unfold decodeBasic
  split
  case h_45 h => rw [encode_decodeJrst, hop h]; rfl
  case h_70 => rfl
  all_goals next h => rw [hop h]; rfl

@[simp] theorem encode_decode (w : Word) : encode (decode w) = w := by
  unfold decode
  split
  next h => rw [encode_decodeIo, assembleIo_fields w h]
  · have h := encode_decodeBasic (opOf w) (basicOf w)
    rwa [assemble_fields] at h

end Sys2Proof
end

section
/-! PROOFS. What an instruction that goes on can have changed, said once for every shape of a meaning; the shapes of the
families that the frame statements name. -/

namespace Sys2Proof.Machine

open Claims

/-! ## Monitor calls among the shapes -/

/-- The uops of a monitor call are the bare hand-off, and no other instruction has OP_MUUO (30_encoding.md R87). -/
theorem shapeOf_muuo {i : Instr} {g : Gate} {rd : Rd} {cond : BitVec 3} {wb : Wb}
    (h : shapeOf i = .uops g rd .muuo cond wb) :
    (∃ f, monitorCall f i) ∧ shapeOf i = .uops .open .none .muuo 0 .none := by
  cases i <;> simp only [shapeOf, Shape.uops.injEq, reduceCtorEq, false_and, and_false] at h
  all_goals next f => exact ⟨⟨f, by simp [monitorCall, monitorCalls]⟩, rfl⟩

theorem shapeOf_monitorCall {f : Basic} {i : Instr} (h : monitorCall f i) :
    shapeOf i = .uops .open .none .muuo 0 .none := by
  revert i
  simp [monitorCall, monitorCalls, shapeOf]

theorem acOf_encode_monitorCall {f : Basic} {i : Instr} (h : monitorCall f i) : acOf (encode i) = f.ac := by
  revert i
  simp [monitorCall, monitorCalls, encode]

/-- At the point of a monitor call the state is the one that the claims name. -/
theorem entered_of_monitorCall {f : Basic} {i : Instr} (h : monitorCall f i) (e : Addr) (mb : Word) (s : State) :
    entered i f.ac e mb s = (s.latch (encode i)).setEa e mb := by
  rw [← acOf_encode_monitorCall h]
  rfl

/-! ## Up to the write-back -/

/-- The operate uops that draw `flags` (40_decode_dispatch.md R137). -/
def Op.draws : Op → Bool
  | .neg | .add | .sub => true
  | .pass | .jump | .skip | .jrst | .muuo => false

/-- `m` is the state of a generic step between operate and write-back: nothing but hidden registers and the draw count has
changed since the entry `s`, and `flags` only by a draw. -/
structure Operated (w : Word) (op : Op) (s m : State) : Prop where
  eq : m = { s with ir := w, ac := acOf w, ar := m.ar, br := m.br, ma := m.ma, mb := m.mb, flags := m.flags, draws := m.draws }
  flags : op.draws = false → m.flags = s.flags

theorem operated_of_readOperands {w : Word} {rd : Rd} {e : Addr} {mb : Word} {s u : State} (op : Op)
    (h : readOperands rd e ((s.latch w).setEa e mb) = .next u) : Operated w op s (operate op u) := by
  have hu := readOperands_eq_next h
  constructor
  · rw [operate_eq op u, hu]; rfl
  · intro hd
    rw [hu]
    cases op with
    | neg | add | sub => cases hd
    | pass | jump | skip | jrst | muuo => rfl

section Operated

variable {w : Word} {op : Op} {s m : State}

theorem Operated.ac (h : Operated w op s m) : m.ac = acOf w := congrArg State.ac h.eq
theorem Operated.fmAt (h : Operated w op s m) (j : AcNum) : m.fmAt j = s.fmAt j := congrArg (·.fmAt j) h.eq
theorem Operated.memGet (h : Operated w op s m) (a : Addr) : m.memGet a = s.memGet a := congrArg (·.memGet a) h.eq
theorem Operated.slotAt (h : Operated w op s m) (a : Addr) : m.slotAt a = s.slotAt a := congrArg (·.slotAt a) h.eq
theorem Operated.aliasesFm (h : Operated w op s m) (a : Addr) : Machine.aliasesFm m a = Machine.aliasesFm s a := by
  rw [h.eq]; rfl

end Operated

/-! ## The instruction as a whole -/

/-- What an instruction run by its uops, other than a monitor call, can go on with: the state itself where EA calculation
hangs (R128), or what its write-back leaves, with a new PC. -/
theorem exec_uops_eq_next {i : Instr} {g : Gate} {rd : Rd} {op : Op} {cond : BitVec 3} {wb : Wb} {s t : State}
    (hs : shapeOf i = .uops g rd op cond wb) (hop : op ≠ .muuo) (h : exec i s = .next t) :
    (eaOf s (encode i) = .hang ∧ t = s) ∨
    ∃ e mb m v p, eaOf s (encode i) = .done e mb ∧ Operated (encode i) op s m ∧ writeBack wb e m = .next v ∧
      t = v.setPc p := by
  rw [exec_eq_shape, hs] at h
  obtain ⟨-, hg⟩ | ⟨-, hg⟩ := gated_cases g (encode i) (execGeneric (encode i) rd op cond wb) s
  · obtain hh | ⟨e, mb, u, v, he, hu, hv, rfl⟩ := execGeneric_eq_next hop (hg.symm.trans h)
    · exact .inl hh
    · exact .inr ⟨e, mb, operate op u, v, _, he, operated_of_readOperands op hu, hv, rfl⟩
  · exact absurd (hg.symm.trans h) refuse_ne_next

/-- What any instruction can go on with. -/
inductive GoesOn (i : Instr) (s : State) : State → Prop where
  | hang : eaOf s (encode i) = .hang → GoesOn i s s
  | fast {y : Addr} : shapeOf i = .fast y → GoesOn i s ((s.setIr (encode i)).setPc y)
  | uops {g : Gate} {rd : Rd} {op : Op} {cond : BitVec 3} {wb : Wb} {e : Addr} {m v : State} {p : Addr} :
      shapeOf i = .uops g rd op cond wb → op ≠ .muuo → Operated (encode i) op s m → writeBack wb e m = .next v →
      GoesOn i s (v.setPc p)
  | call {f : Basic} {e : Addr} {mb : Word} {t : State} :
      monitorCall f i → eaOf s (encode i) = .done e mb → muuoCall (encode i) e ((s.latch (encode i)).setEa e mb) = .next t →
      GoesOn i s t

theorem exec_eq_next {i : Instr} {s t : State} (h : exec i s = .next t) : GoesOn i s t := by
  cases hs : shapeOf i with
  | uops g rd op cond wb =>
    by_cases hop : op = .muuo
    · subst hop
      obtain ⟨⟨f, hf⟩, hb⟩ := shapeOf_muuo hs
      rw [exec_eq_shape, hb] at h
      obtain ⟨he, rfl⟩ | ⟨e, mb, he, hm⟩ := execMuuo_eq_next h
      · exact .hang he
      · exact .call hf he hm
    · obtain ⟨he, rfl⟩ | ⟨e, mb, m, v, p, -, hm, hw, rfl⟩ := exec_uops_eq_next hs hop h
      · exact .hang he
      · exact .uops hs hop hm hw
  | fast y =>
    rw [exec_eq_shape, hs] at h
    obtain rfl : (s.setIr (encode i)).setPc y = t := by simpa [Shape.run, execFast] using h
    exact .fast hs
  | refused r =>
    rw [exec_eq_shape, hs] at h
    exact absurd h refuse_ne_next

/-- Outside the monitor calls an instruction leaves MQ, the status, the cursor and the parameters, whatever it writes
(10_state.md R29, R36). -/
theorem exec_keeps_rest {i : Instr} {s t : State} (hi : ∀ f, ¬ monitorCall f i) (h : exec i s = .next t) :
    t.mq = s.mq ∧ t.status = s.status ∧ t.cursor = s.cursor ∧ t.config = s.config := by
  cases exec_eq_next h with
  | hang | fast => exact ⟨rfl, rfl, rfl, rfl⟩
  | uops hs hop hm hw =>
    rw [writeBack_eq_next hw, hm.eq]
    exact ⟨rfl, rfl, rfl, rfl⟩
  | call hf => exact absurd hf (hi _)

/-- An instruction whose operate uop draws no `flags` leaves them. -/
theorem exec_keeps_flags {i : Instr} {g : Gate} {rd : Rd} {op : Op} {cond : BitVec 3} {wb : Wb} {s t : State}
    (hs : shapeOf i = .uops g rd op cond wb) (hop : op ≠ .muuo) (hd : op.draws = false) (h : exec i s = .next t) :
    t.flags = s.flags := by
  obtain ⟨-, rfl⟩ | ⟨e, mb, m, v, p, -, hm, hw, rfl⟩ := exec_uops_eq_next hs hop h
  · rfl
  · exact (congrArg State.flags (writeBack_eq_next hw)).trans (hm.flags hd)

/-! ## The shapes of the families -/

/-- Only the instructions whose rule says so have an operate uop that draws `flags` (10_state.md R28). -/
theorem draws_of_not_drawsFlags {i : Instr} {g : Gate} {rd : Rd} {op : Op} {cond : BitVec 3} {wb : Wb}
    (hs : shapeOf i = .uops g rd op cond wb) (hi : ∀ f, ¬ drawsFlags f i) : op.draws = false := by
  cases i <;> simp [drawsFlags, shapeOf] at hs hi
  all_goals obtain ⟨-, -, rfl, -⟩ := hs; rfl

/-- The instructions whose result goes to `FM[AC]` alone write back by WB_AC. -/
theorem shapeOf_toAccumulator {f : Basic} {i : Instr} (h : toAccumulator f i) :
    acOf (encode i) = f.ac ∧ ∃ g rd op cond, shapeOf i = .uops g rd op cond .ac ∧ op ≠ .muuo ∧
      (op.draws = true → drawsFlags f i) := by
  simp only [toAccumulator, List.mem_cons, List.not_mem_nil, or_false] at h
  obtain rfl | rfl | rfl | rfl | rfl | rfl | rfl | rfl := h <;>
    exact ⟨acOf_assemble _ f, _, _, _, _, rfl, by decide, by simp [Op.draws, drawsFlags]⟩

/-- The instructions that write memory do so by WB_MEM, WB_BOTH or WB_SELF, and the last two write `FM[AC]` too. -/
theorem shapeOf_toMemory {f : Basic} {i : Instr} (h : toMemory f i) :
    acOf (encode i) = f.ac ∧ ∃ g rd op cond wb, shapeOf i = .uops g rd op cond wb ∧ op ≠ .muuo ∧
      (op.draws = true → drawsFlags f i) ∧ (wb = .mem ∨ wb = .both ∨ wb = .self) ∧
      (i ∈ [.movem f, .movnm f, .addm f, .subm f] ∨ (i ∈ [.moves f, .movns f] ∧ f.ac = 0) →
        wb = .mem ∨ (wb = .self ∧ f.ac = 0)) := by
  simp only [toMemory, List.mem_cons, List.not_mem_nil, or_false] at h
  obtain rfl | rfl | rfl | rfl | rfl | rfl | rfl | rfl := h <;>
    exact ⟨acOf_assemble _ f, _, _, _, _, _, rfl, by decide, by simp [Op.draws, drawsFlags], by simp, by simp⟩

theorem shapeOf_jumpOf (c : BitVec 3) (f : Basic) : ∃ g cond, shapeOf (jumpOf c f) = .uops g .ac .jump cond .none := by
  unfold jumpOf
  split <;> exact ⟨_, _, rfl⟩

theorem shapeOf_skipOf (c : BitVec 3) (f : Basic) : ∃ g cond, shapeOf (skipOf c f) = .uops g .mem .skip cond .acNz := by
  unfold skipOf
  split <;> exact ⟨_, _, rfl⟩

theorem acOf_encode_skipOf (c : BitVec 3) (f : Basic) : acOf (encode (skipOf c f)) = f.ac := by
  unfold skipOf
  split <;> exact acOf_assemble _ f

/-- An instruction with a shape other than the hand-off is no monitor call. -/
theorem not_monitorCall_of_shapeOf {i : Instr} {g : Gate} {rd : Rd} {op : Op} {cond : BitVec 3} {wb : Wb}
    (hs : shapeOf i = .uops g rd op cond wb) (hop : op ≠ .muuo) (f : Basic) : ¬ monitorCall f i := by
  intro hf
  rw [shapeOf_monitorCall hf] at hs
  cases hs
  exact hop rfl

end Sys2Proof.Machine
end

section
/-! PROOFS. What a host operation that answers can have done, said once for every operation (10_state.md R35); what then holds
along the host steps and the writes of a monitor service (44_monitor_unspecified.md R240). -/

namespace Sys2Proof.Machine

/-! ## The argument checks -/

theorem withAddr_of_lt {a : Nat} (h : a < addressCount) (s : State) (k : Addr → HostResult) :
    withAddr a s k = k (BitVec.ofNat 18 a) := if_pos h

theorem withWord_of_lt {w : Nat} (h : w < 2 ^ 36) (s : State) (k : Word → HostResult) :
    withWord w s k = k (BitVec.ofNat 36 w) := if_pos h

theorem withAddr_eq_next {a : Nat} {s : State} {k : Addr → HostResult} {x : State × HostReply} :
    withAddr a s k = .next x ↔ a < addressCount ∧ k (BitVec.ofNat 18 a) = .next x := by
  by_cases h : a < addressCount
  · simp [withAddr_of_lt, h]
  · simp [withAddr, h, refuse_ne_next]

theorem withWord_eq_next {w : Nat} {s : State} {k : Word → HostResult} {x : State × HostReply} :
    withWord w s k = .next x ↔ w < 2 ^ 36 ∧ k (BitVec.ofNat 36 w) = .next x := by
  by_cases h : w < 2 ^ 36
  · simp only [withWord_of_lt, h, true_and]
  · simp only [withWord, h, if_false, refuse_ne_next, false_and]

theorem doneWith_eq_next {r : Result} {t : State} {x : HostReply} (h : doneWith r = .next (t, x)) : r = .next t := by
  obtain ⟨u, hu, h⟩ := andThen_eq_next.mp h
  cases h
  exact hu

/-! ## The operations -/

/-- What each host operation goes on with. The premises are what the operation has checked. -/
inductive HostGoesOn (s : State) : HostOp → State → Prop where
  | duplicate {a : Nat} {data : List Nat} : HostGoesOn s (.addMemory a data) s
  | noRoom {a : Nat} {data : List Nat} : HostGoesOn s (.addMemory a data) (drawAlloc s).2
  | newArea {a : Nat} {data : List Nat} : data ≠ [] → a + data.length ≤ addressCount →
      overlapsArea s.mem a (a + data.length) = false →
      HostGoesOn s (.addMemory a data)
        ((drawAlloc s).2.setMem (insertArea (newArea s a (data.map (BitVec.ofNat 36))) s.mem))
  | setWordAt {a w : Nat} {t : State} : a < addressCount →
      setWordAt (BitVec.ofNat 18 a) (BitVec.ofNat 36 w) s = .next t → HostGoesOn s (.setWordAt a w) t
  | writeMemory {a w : Nat} {t : State} : a < addressCount →
      setWordAt (BitVec.ofNat 18 a) (BitVec.ofNat 36 w) s = .next t →
      HostGoesOn s (.writeMemory a w) (invalidateWord (BitVec.ofNat 18 a) t)
  | invalidateWord {a : Nat} : a < addressCount →
      HostGoesOn s (.invalidateWord a) (invalidateWord (BitVec.ofNat 18 a) s)
  | purePage {a : Nat} : a < addressCount → HostGoesOn s (.purePage a) (purePage a s)
  | unpurePage {a : Nat} : a < addressCount → HostGoesOn s (.unpurePage a) (unpurePage a s)
  | unmappedPage {a : Nat} : a < addressCount → HostGoesOn s (.unmappedPage a) (unmappedPage a s)
  | run {start : Nat} {memory : Memory} : s.started = false → memory.wf →
      HostGoesOn s (.run start memory)
        { s with mem := memory, pc := BitVec.ofNat 18 start, status := .running, started := true }
  | getWordAt {a : Nat} : HostGoesOn s (.getWordAt a) s
  | setAddress : HostGoesOn s (.setAddress (-1)) (s.setCursor none)
  | getNext {c : Option Nat} : HostGoesOn s .getNext (s.setCursor c)

theorem addMemory_eq_next {a : Nat} {data : List Nat} {s t : State} {r : HostReply} (h : addMemory a data s = .next (t, r)) :
    HostGoesOn s (.addMemory a data) t := by
  unfold addMemory at h
  split at h
  · exact absurd h refuse_ne_next
  split at h
  · exact absurd h refuse_ne_next
  split at h
  · cases h; exact .duplicate
  split at h
  · exact absurd h refuse_ne_next
  next hfree =>
    split at h
    · cases h; exact .noRoom
    · cases h
      obtain ⟨hd, hn, ho⟩ : data ≠ [] ∧ a + data.length ≤ addressCount ∧ overlapsArea s.mem a (a + data.length) = false := by
        simpa [and_assoc] using hfree
      exact .newArea hd hn ho

theorem hostRun_eq_next {start : Nat} {memory : Memory} {s t : State} {r : HostReply}
    (h : hostRun start memory s = .next (t, r)) : HostGoesOn s (.run start memory) t := by
  unfold hostRun at h
  split at h
  · exact absurd h refuse_ne_next
  next hs =>
    split at h
    · exact absurd h refuse_ne_next
    next hm =>
      cases h
      exact .run (by simpa using hs) (not_not.mp hm)

theorem getNext_eq_next {s t : State} {r : HostReply} (h : getNext s = .next (t, r)) : HostGoesOn s .getNext t := by
  unfold getNext at h
  split at h
  · cases h; exact .getNext
  · cases h; exact .getNext (c := s.cursor)

theorem hostOp_eq_next {op : HostOp} {s t : State} {r : HostReply} (h : hostOp op s = .next (t, r)) :
    HostGoesOn s op t := by
  cases op <;> simp only [hostOp, withAddr_eq_next, withWord_eq_next] at h
  case addMemory => exact addMemory_eq_next h
  case setWordAt =>
    obtain ⟨ha, -, h⟩ := h
    exact .setWordAt ha (doneWith_eq_next h)
  case writeMemory =>
    obtain ⟨ha, -, h⟩ := h
    obtain ⟨u, hu, ht⟩ := andThen_eq_next.mp (doneWith_eq_next h)
    cases ht
    exact .writeMemory ha hu
  case invalidateWord => obtain ⟨ha, h⟩ := h; cases h; exact .invalidateWord ha
  case purePage => obtain ⟨ha, h⟩ := h; cases h; exact .purePage ha
  case unpurePage => obtain ⟨ha, h⟩ := h; cases h; exact .unpurePage ha
  case unmappedPage => obtain ⟨ha, h⟩ := h; cases h; exact .unmappedPage ha
  case run => exact hostRun_eq_next h
  case getWordAt => obtain ⟨-, h⟩ := h; cases h; exact .getWordAt
  case setAddress a =>
    by_cases ha : a = -1
    · subst ha
      cases h
      exact .setAddress
    · exact absurd ((if_neg ha).symm.trans h) refuse_ne_next
  case getNext => exact getNext_eq_next h

theorem hostStep_of_running {op : HostOp} {s : State} (h : s.status = .running) : hostStep op s = hostOp op s := if_pos h

theorem hostStep_of_not_running {op : HostOp} {s : State} (h : s.status ≠ .running) : hostStep op s = .refused .ended :=
  if_neg h

theorem hostStep_eq_next {op : HostOp} {s t : State} {r : HostReply} (h : hostStep op s = .next (t, r)) :
    s.status = .running ∧ HostGoesOn s op t := by
  by_cases hs : s.status = .running
  · exact ⟨hs, hostOp_eq_next ((hostStep_of_running hs).symm.trans h)⟩
  · simp [hostStep_of_not_running hs] at h

/-- No host operation writes a register, but `run` the PC (10_state.md R35, 70_reset_and_hazards.md R300). -/
theorem HostGoesOn.keeps_registers {op : HostOp} {s t : State} (h : HostGoesOn s op t) :
    t = { s with
      pc := t.pc, mem := t.mem, slots := t.slots, status := t.status, cursor := t.cursor, started := t.started,
      draws := t.draws, allocScript := t.allocScript } := by
  cases h with
  | noRoom => rw [drawAlloc_snd]
  | newArea => rw [drawAlloc_snd]; rfl
  | setWordAt _ h => obtain ⟨m, d, l, rfl, -, -⟩ := setWordAt_eq_next h; rfl
  | writeMemory _ h => obtain ⟨m, d, l, rfl, -, -⟩ := setWordAt_eq_next h; rfl
  | duplicate | invalidateWord | purePage | unpurePage | unmappedPage | run | getWordAt | setAddress | getNext => rfl

/-! ## Inside a monitor service -/

/-- The state that a host operation goes on with, its reply dropped. -/
def dropReply : HostResult → Result
  | .next (t, _) => .next t
  | .fault f => .fault f
  | .refused r => .refused r

theorem dropReply_eq_next {q : HostResult} {t : State} : dropReply q = .next t ↔ ∃ r, q = .next (t, r) := by
  cases q <;> simp [dropReply, Prod.ext_iff]

@[simp] theorem dropReply_doneWith (r : Result) : dropReply (doneWith r) = r := by cases r <;> rfl

theorem hostSteps_cons (op : HostOp) (ops : List HostOp) (s : State) :
    hostSteps (op :: ops) s = andThen (dropReply (hostStep op s)) (hostSteps ops) := by
  rw [hostSteps]
  cases hostStep op s <;> rfl

theorem hostSteps_keeps {P : State → Prop} {ops : List HostOp}
    (hP : ∀ op ∈ ops, ∀ s t, P s → HostGoesOn s op t → P t) {s t : State} (hs : P s) (h : hostSteps ops s = .next t) : P t := by
  induction ops generalizing s with
  | nil => cases h; exact hs
  | cons op ops ih =>
    rw [hostSteps_cons, andThen_eq_next] at h
    obtain ⟨u, hu, h⟩ := h
    obtain ⟨r, hr⟩ := dropReply_eq_next.mp hu
    exact ih (fun o ho => hP o (.tail _ ho)) (hP op (.head _) s u hs (hostStep_eq_next hr).2) h

theorem serviceWrites_keeps {P : State → Prop} (hP : ∀ a v s t, P s → memWrite a v s = .next t → P t)
    {ws : List (Addr × Word)} {s t : State} (hs : P s) (h : serviceWrites ws s = .next t) : P t := by
  induction ws generalizing s with
  | nil => cases h; exact hs
  | cons x ws ih =>
    obtain ⟨u, hu, h⟩ := andThen_eq_next.mp h
    exact ih (hP x.1 x.2 s u hs hu) h

theorem serviceFm_eq (ws : List (AcNum × Word)) (s : State) : serviceFm ws s = { s with fm := (serviceFm ws s).fm } := by
  induction ws generalizing s with
  | nil => rfl
  | cons x ws ih => rw [serviceFm, ih]; rfl

theorem serviceRegs_eq (eff : ServiceEffect) (s : State) :
    serviceRegs eff s = { s with
      fm := (serviceRegs eff s).fm, flags := (serviceRegs eff s).flags, pc := (serviceRegs eff s).pc } := by
  rw [serviceRegs, serviceFm_eq]

/-- What the host steps, the writes and the registers of a reply each keep, a `Continue` keeps. -/
theorem serviceContinue_keeps {P : State → Prop} {eff : ServiceEffect}
    (hHost : ∀ op ∈ eff.host, ∀ s t, P s → HostGoesOn s op t → P t)
    (hMem : ∀ a v s t, P s → memWrite a v s = .next t → P t) (hRegs : ∀ s, P s → P (serviceRegs eff s))
    {s t : State} (hs : P s) (h : serviceContinue eff s = .next t) : P t := by
  obtain ⟨u, hu, h⟩ := andThen_eq_next.mp h
  obtain ⟨v, hv, h⟩ := andThen_eq_next.mp h
  cases h
  exact hRegs v (serviceWrites_keeps hMem (hostSteps_keeps hHost hs hu) hv)

end Sys2Proof.Machine
end

section
/-! PROOFS. The lockstep of slots and memory (10_state.md R22): what keeps it, and that every step and every host operation but
the raw store and `run` does. -/

namespace Sys2Proof.Machine

open Claims

/-! ## What keeps the lockstep -/

/-- The lockstep speaks of slots, memory and the parameters alone. -/
theorem State.Lockstep.congr {s t : State} (h : s.Lockstep) (hs : t.slots = s.slots) (hm : t.mem = s.mem)
    (hc : t.config = s.config) : t.Lockstep := by
  intro a sel ha
  unfold State.slotAt at ha
  unfold State.memGet
  rw [hs] at ha
  rw [hm, hc]
  exact h a sel ha

/-- It is kept where every slot that is DECODED is a decoding of its word, or is as before with its word as before. -/
theorem State.Lockstep.of_slots {s t : State} (h : s.Lockstep) (hc : t.config = s.config)
    (hs : ∀ a sel, t.slotAt a = .decoded sel → (∃ w, t.memGet a = some w ∧ sel = dec s.config w) ∨
      (s.slotAt a = .decoded sel ∧ t.memGet a = s.memGet a)) : t.Lockstep := by
  intro a sel ha
  obtain ⟨w, hw, rfl⟩ | ⟨hd, hw⟩ := hs a sel ha
  · simp [hw, hc]
  · rw [hw, hc]
    exact h a sel hd

theorem slotAt_setSlot (s : State) (a b : Addr) (v : Slot) :
    (s.setSlot a v).slotAt b = if b = a then v else s.slotAt b := by
  simp only [State.slotAt, State.setSlot_slots, slotGet_set, BitVec.toNat_inj]

/-- A store that makes the slot of its address STUB keeps the lockstep (20_memory.md R61), whatever else the registers do. -/
theorem State.Lockstep.store {s t : State} {a : Addr} {w : Word} (h : s.Lockstep) (hc : t.config = s.config)
    (hs : t.slots = slotSet s.slots a.toNat .stub)
    (hm : ∀ b, getWord t.mem b = if b = a.toNat then some w else getWord s.mem b) : t.Lockstep := by
  refine h.of_slots hc fun b sel hb => .inr ?_
  unfold State.slotAt at hb
  rw [hs, slotGet_set] at hb
  split at hb
  · cases hb
  next hne => exact ⟨hb, (hm b.toNat).trans (if_neg hne)⟩

/-- An invalidation keeps the lockstep, of any address (40_decode_dispatch.md R130). -/
theorem State.Lockstep.invalidateWord {s : State} (h : s.Lockstep) (a : Addr) : (invalidateWord a s).Lockstep := by
  refine h.of_slots rfl fun b sel hb => .inr ⟨?_, rfl⟩
  unfold Machine.invalidateWord at hb
  rw [slotAt_setSlot] at hb
  split at hb
  · cases hb
  · exact hb

/-- A page fill keeps the lockstep where each DECODED value that it gives is a decoding of the word there (R131 to R133). -/
theorem State.Lockstep.fill {s : State} (h : s.Lockstep) (a : Nat) (f : Nat → Slot)
    (hf : ∀ b sel, f b = .decoded sel → ∃ w, getWord s.mem b = some w ∧ sel = dec s.config w) :
    (s.setSlots (slotFill s.slots a f)).Lockstep := by
  refine h.of_slots rfl fun b sel hb => ?_
  unfold State.slotAt at hb
  rw [State.setSlots_slots, slotGet_fill] at hb
  split at hb
  · exact .inl (hf b.toNat sel hb)
  · exact .inr ⟨hb, rfl⟩

theorem pureSlot_eq_decoded {s : State} {a : Nat} {sel : Sel} (h : pureSlot s a = .decoded sel) :
    ∃ w, getWord s.mem a = some w ∧ sel = dec s.config w := by
  unfold pureSlot at h
  split at h
  next w hw => cases h; exact ⟨w, hw, rfl⟩
  · cases h

/-- An address that a free range holds is unmapped (20_memory.md R58). -/
theorem getWord_of_not_overlaps {m : Memory} {lo hi b : Nat} (h : overlapsArea m lo hi = false) (hlo : lo ≤ b) (hhi : b < hi) :
    getWord m b = none := by
  refine getWord_eq_none.mpr fun ar har => ?_
  rw [Bool.eq_false_iff, ne_eq, Area.covers_iff]
  have hno := List.any_eq_false.mp h ar har
  simp only [Bool.and_eq_true, decide_eq_true_eq] at hno
  omega

/-- A new area in a free range leaves every mapped word (20_memory.md R57). -/
theorem getWord_insertArea_of_some {ar : Area} {m : Memory} {b : Nat} {w : Word} (ho : overlapsArea m ar.start ar.stop = false)
    (hb : getWord m b = some w) : getWord (insertArea ar m) b = some w := by
  refine (getWord_insertArea_of_not_covers ar m ?_).trans hb
  rw [Bool.eq_false_iff, ne_eq, Area.covers_iff]
  rintro ⟨hlo, hhi⟩
  simp [getWord_of_not_overlaps ho hlo hhi] at hb

/-! ## Every operation -/

theorem State.Lockstep.memWrite {s t : State} {a : Addr} {v : Word} (h : s.Lockstep) (hw : memWrite a v s = .next t) :
    t.Lockstep := by
  obtain ⟨-, rfl⟩ | ⟨-, m, d, l, rfl, hm, -⟩ := memWrite_eq_next hw
  · exact h.congr rfl rfl rfl
  · exact h.store rfl rfl hm

/-- The one operation that grows memory puts no word under a slot that is DECODED. -/
theorem State.Lockstep.newArea {s : State} (h : s.Lockstep) {a : Nat} {data : List Nat}
    (ho : overlapsArea s.mem a (a + data.length) = false) :
    ((drawAlloc s).2.setMem (insertArea (newArea s a (data.map (BitVec.ofNat 36))) s.mem)).Lockstep := by
  rw [drawAlloc_snd]
  refine h.of_slots rfl fun b sel hb => .inr ⟨hb, ?_⟩
  have hw := (h b sel hb).1
  exact (getWord_insertArea_of_some (by simpa [Machine.newArea, Area.stop] using ho) hw).trans hw.symm

theorem State.Lockstep.hostGoesOn {op : HostOp} {s t : State} (h : s.Lockstep) (hop : op.keepsLockstep = true)
    (ht : HostGoesOn s op t) : t.Lockstep := by
  cases ht with
  | duplicate | getWordAt => exact h
  | noRoom => rw [drawAlloc_snd]; exact h.congr rfl rfl rfl
  | newArea _ _ ho => exact h.newArea ho
  | writeMemory _ hu =>
    obtain ⟨m, d, l, rfl, hm, -⟩ := setWordAt_eq_next hu
    exact h.store rfl rfl hm
  | invalidateWord => exact h.invalidateWord _
  | purePage => exact h.fill _ _ fun b sel hb => pureSlot_eq_decoded hb
  | unpurePage | unmappedPage => exact h.fill _ _ fun b sel hb => by cases hb
  | setAddress | getNext => exact h.congr rfl rfl rfl
  | setWordAt | run => cases hop

theorem State.Lockstep.writeBack {wb : Wb} {e : Addr} {s t : State} (h : s.Lockstep) (hw : writeBack wb e s = .next t) :
    t.Lockstep := by
  by_cases hr : wb = .none ∨ wb = .ac ∨ wb = .acNz
  · rw [writeBack_register hr hw]
    exact h.congr rfl rfl rfl
  · have hm : wb = .mem ∨ wb = .both ∨ wb = .self := by cases wb <;> simp at hr ⊢
    obtain ⟨u, hu, rfl | ⟨-, -, rfl⟩⟩ := writeBack_memory hm hw
    · exact h.memWrite hu
    · exact (h.memWrite hu).congr rfl rfl rfl

theorem State.Lockstep.operated {w : Word} {op : Op} {s m : State} (h : s.Lockstep) (hm : Operated w op s m) :
    m.Lockstep := by
  rw [hm.eq]
  exact h.congr rfl rfl rfl

/-- A monitor call keeps the lockstep where the host steps of its reply do. -/
theorem State.Lockstep.muuoCall {w : Word} {e : Addr} {s t : State} (h : s.Lockstep)
    (hr : (drawReply w e s).1.keepsLockstep = true) (ht : muuoCall w e s = .next t) : t.Lockstep := by
  obtain ⟨-, rfl⟩ | ⟨eff, heff, ht⟩ := muuoCall_eq_next ht
  · exact h.congr rfl rfl rfl
  · rw [heff] at hr
    have hd : (drawReply w e s).2.Lockstep := by rw [drawReply_snd]; exact h.congr rfl rfl rfl
    refine serviceContinue_keeps (fun op hop s t hs => hs.hostGoesOn (List.all_eq_true.mp hr op hop))
      (fun a v s t hs => hs.memWrite) (fun s hs => ?_) hd ht
    rw [serviceRegs_eq]
    exact hs.congr rfl rfl rfl

/-- An instruction keeps the lockstep; a monitor call does where its reply does. -/
theorem State.Lockstep.exec {i : Instr} {s t : State} (h : s.Lockstep)
    (hcall : ∀ f e mb, monitorCall f i → eaOf s (encode i) = .done e mb → (replyTo f i e mb s).keepsLockstep = true)
    (ht : exec i s = .next t) : t.Lockstep := by
  cases exec_eq_next ht with
  | hang => exact h
  | fast => exact h.congr rfl rfl rfl
  | uops _ _ hm hw => exact ((h.operated hm).writeBack hw).congr rfl rfl rfl
  | call hf he hm =>
    have hr := hcall _ _ _ hf he
    rw [replyTo, entered_of_monitorCall hf] at hr
    refine State.Lockstep.muuoCall ?_ hr hm
    exact h.congr rfl rfl rfl

/-- Decoding a STUB keeps the lockstep: the slot becomes the decoding of its word (40_decode_dispatch.md R121). -/
theorem State.Lockstep.decodeStep {s t : State} (h : s.Lockstep) (ht : decodeStep s = .next t) : t.Lockstep := by
  unfold Machine.decodeStep at ht
  split at ht
  next w hw =>
    cases ht
    refine h.of_slots rfl fun a sel ha => ?_
    rw [slotAt_setSlot] at ha
    split at ha
    next hpc => cases ha; subst hpc; exact .inl ⟨w, hw, rfl⟩
    · exact .inr ⟨ha, rfl⟩
  · exact absurd ht raise_ne_next

theorem enterDecoded_of_dec {sel : Sel} {s : State} (h : dec s.config sel.word = sel) :
    enterDecoded sel s = exec (decode sel.word) s := by
  simp [enterDecoded, Sel.instr?, h]

/-- What a step can go on with (40_decode_dispatch.md R120): a decoding, or what the slot's selection gives. -/
theorem step_eq_next {s t : State} (h : step s = .next t) :
    live s ∧ ((s.slotAt s.pc = .stub ∧ decodeStep s = .next t) ∨
      ∃ sel, s.slotAt s.pc = .decoded sel ∧ enterDecoded sel s = .next t) := by
  unfold step at h
  split at h
  · cases h
  next hr =>
    split at h
    · cases h
    next hl =>
      refine ⟨⟨not_not.mp hr, by simpa using hl⟩, ?_⟩
      split at h
      next hs => exact .inl ⟨hs, h⟩
      · exact absurd h raise_ne_next
      next sel hs => exact .inr ⟨sel, hs, h⟩

/-- Settles O53: a step decodes a STUB, or runs the instruction of a slot that the lockstep ties to `DEC`. -/
theorem stepKeepsLockstep : Obligations.StepKeepsLockstep := by
  intro s t h hcall ht
  obtain ⟨-, ⟨-, ht⟩ | ⟨sel, hs, ht⟩⟩ := step_eq_next ht
  · exact h.decodeStep ht
  · have hd := (h s.pc sel hs).2
    rw [enterDecoded_of_dec hd] at ht
    refine h.exec (fun f e mb hf he => ?_) ht
    rw [encode_decode] at he
    exact hcall sel.word f e mb (hd.symm ▸ hs) hf he

/-- Settles O54, operation by operation. -/
theorem hostStepKeepsLockstep : Obligations.HostStepKeepsLockstep := by
  intro op s t r h hset hrun ht
  have hop : op.keepsLockstep = true := by
    cases op with
    | setWordAt a w => exact absurd rfl (hset a w)
    | run start m => exact absurd rfl (hrun start m)
    | addMemory | writeMemory | invalidateWord | purePage | unpurePage | unmappedPage | getWordAt | setAddress | getNext => rfl
  exact h.hostGoesOn hop (hostStep_eq_next ht).2

end Sys2Proof.Machine
end

section
/-! PROOFS. The frames of the instruction families (10_state.md R28, R29, R36), the host's own store (R35) and the states that
have no step (R32, R34). -/

namespace Sys2Proof.Machine

open Claims

/-! ## The accumulator forms and the stores -/

/-- Settles O47: WB_AC writes `FM[AC]` and nothing else. -/
theorem accumulatorFrame : Obligations.AccumulatorFrame := by
  intro f i s t hi ht
  obtain ⟨hac, g, rd, op, cond, hs, hop, hd⟩ := shapeOf_toAccumulator hi
  have hflags (hn : ¬ drawsFlags f i) : t.flags = s.flags :=
    exec_keeps_flags hs hop (Bool.eq_false_iff.mpr fun h => hn (hd h)) ht
  obtain ⟨hfm, hmem, hslot⟩ :
      (∀ j, j ≠ f.ac → t.fmAt j = s.fmAt j) ∧ (∀ a, t.memGet a = s.memGet a) ∧ ∀ a, t.slotAt a = s.slotAt a := by
    obtain ⟨-, rfl⟩ | ⟨e, mb, m, v, p, -, hm, hw, rfl⟩ := exec_uops_eq_next hs hop ht
    · exact ⟨fun _ _ => rfl, fun _ => rfl, fun _ => rfl⟩
    · obtain rfl : m.setFm m.ac m.ar = v := by simpa [writeBack] using hw
      refine ⟨fun j hj => ?_, hm.memGet, hm.slotAt⟩
      have hj : j ≠ m.ac := by rwa [hm.ac, hac]
      exact (State.fmAt_setFm_ne _ _ hj).trans (hm.fmAt j)
  exact ⟨hfm, hmem, hslot, hflags, exec_keeps_rest (not_monitorCall_of_shapeOf hs hop) ht⟩

/-- The frame of a write by the block (20_memory.md R61): memory and slots elsewhere, and everywhere where the address reaches
an accumulator; and every accumulator that the address does not reach. -/
theorem memWrite_frame {e : Addr} {x : Word} {m u : State} (h : memWrite e x m = .next u) :
    (∀ a, a ≠ e → u.memGet a = m.memGet a ∧ u.slotAt a = m.slotAt a) ∧
    (aliasesFm m e = true → u.memGet e = m.memGet e ∧ u.slotAt e = m.slotAt e) ∧
    (∀ j, (aliasesFm m e = true → j ≠ aliasedAc e) → u.fmAt j = m.fmAt j) ∧ u.ac = m.ac := by
  obtain ⟨ha, rfl⟩ | ⟨ha, k, d, l, rfl, hk, -⟩ := memWrite_eq_next h
  · exact ⟨fun _ _ => ⟨rfl, rfl⟩, fun _ => ⟨rfl, rfl⟩, fun j hj => State.fmAt_setFm_ne _ x (hj ha), rfl⟩
  · refine ⟨fun a hne => ?_, fun h => absurd h (by simp [ha]), fun _ _ => rfl, rfl⟩
    have hnat : a.toNat ≠ e.toNat := fun h => hne (BitVec.eq_of_toNat_eq h)
    exact ⟨(hk a.toNat).trans (if_neg hnat), (slotAt_setSlot m e a .stub).trans (if_neg hne)⟩

/-- Settles O48: the frame of the one write to memory, and `FM[AC]` after it. -/
theorem storeFrame : Obligations.StoreFrame := by
  intro f i s t e mb hi ht he
  obtain ⟨hac, g, rd, op, cond, wb, hs, hop, hd, hwb, hmem⟩ := shapeOf_toMemory hi
  have hflags (hn : ¬ drawsFlags f i) : t.flags = s.flags :=
    exec_keeps_flags hs hop (Bool.eq_false_iff.mpr fun h => hn (hd h)) ht
  have hrest := exec_keeps_rest (not_monitorCall_of_shapeOf hs hop) ht
  obtain ⟨hh, -⟩ | ⟨e', mb', m, v, p, he', hm, hw, rfl⟩ := exec_uops_eq_next hs hop ht
  · simp [he] at hh
  obtain ⟨rfl, -⟩ : e' = e ∧ mb' = mb := by simpa [he] using he'.symm
  obtain ⟨u, hu, hv⟩ := writeBack_memory hwb hw
  obtain ⟨helse, hat, hfm, huac⟩ := memWrite_frame hu
  simp only [hm.memGet, hm.slotAt, hm.fmAt, hm.aliasesFm, hm.ac, hac] at helse hat hfm huac
  obtain rfl | ⟨hnm, hself, rfl⟩ := hv
  · exact ⟨helse, hat, fun j _ => hfm j, fun _ => hfm, hflags, hrest⟩
  · refine ⟨helse, hat, fun j hj ha => ?_, fun hno => ?_, hflags, hrest⟩
    · exact (State.fmAt_setFm_ne _ _ (by rwa [huac])).trans (hfm j ha)
    · obtain rfl | ⟨hsf, hz⟩ := hmem hno
      · exact absurd rfl hnm
      · exact absurd (huac.trans hz) (hself hsf)

/-! ## JRST, JUMP and SKIP -/

/-- WB_NONE and WB_AC_NZ leave memory and slots, and FM but an accumulator `FM[AC]` with AC not 0. -/
theorem exec_jump_skip_frame {i : Instr} {g : Gate} {rd : Rd} {op : Op} {cond : BitVec 3} {wb : Wb} {s t : State}
    (hs : shapeOf i = .uops g rd op cond wb) (hop : op ≠ .muuo) (hd : op.draws = false) (hwb : wb = .none ∨ wb = .acNz)
    (ht : exec i s = .next t) :
    ((∀ a, t.memGet a = s.memGet a) ∧ (∀ a, t.slotAt a = s.slotAt a) ∧ t.flags = s.flags ∧ t.mq = s.mq ∧
      t.status = s.status) ∧
    (wb = .none → t.fm = s.fm) ∧ ∀ j, (j ≠ acOf (encode i) ∨ acOf (encode i) = 0) → t.fmAt j = s.fmAt j := by
  obtain ⟨hmq, hst, -, -⟩ := exec_keeps_rest (not_monitorCall_of_shapeOf hs hop) ht
  have hflags := exec_keeps_flags hs hop hd ht
  obtain ⟨-, rfl⟩ | ⟨e, mb, m, v, p, -, hm, hw, rfl⟩ := exec_uops_eq_next hs hop ht
  · exact ⟨⟨fun _ => rfl, fun _ => rfl, rfl, rfl, rfl⟩, fun _ => rfl, fun _ _ => rfl⟩
  have hfm : m.fm = s.fm := by rw [hm.eq]
  obtain rfl | rfl := hwb <;> simp only [writeBack, Host.Outcome.next.injEq] at hw <;> subst hw
  · exact ⟨⟨hm.memGet, hm.slotAt, hflags, hmq, hst⟩, fun _ => hfm, fun j _ => hm.fmAt j⟩
  · refine ⟨⟨fun a => ?_, fun a => ?_, hflags, hmq, hst⟩, nofun, fun j hj => ?_⟩
    · refine Eq.trans ?_ (hm.memGet a); split <;> rfl
    · refine Eq.trans ?_ (hm.slotAt a); split <;> rfl
    · refine Eq.trans ?_ (hm.fmAt j)
      rw [← hm.ac] at hj
      split
      · rfl
      next hz => exact State.fmAt_setFm_ne _ _ (hj.resolve_right hz)

/-- Settles O49, family by family. -/
theorem jumpSkipFrame : Obligations.JumpSkipFrame := by
  intro i s t ht
  constructor
  · rintro c f (rfl | rfl)
    · obtain ⟨g, cond, hs⟩ := shapeOf_jumpOf c f
      obtain ⟨⟨hmem, hslot, hfl, hmq, hst⟩, hfm, -⟩ := exec_jump_skip_frame hs nofun rfl (.inl rfl) ht
      have hfm := hfm rfl
      exact ⟨hmem, hslot, hfl, hmq, hst, fun _ => hfm, fun j _ => by simp only [State.fmAt, hfm]⟩
    · obtain ⟨g, cond, hs⟩ := shapeOf_skipOf c f
      obtain ⟨⟨hmem, hslot, hfl, hmq, hst⟩, -, hfm⟩ := exec_jump_skip_frame hs nofun rfl (.inr rfl) ht
      rw [acOf_encode_skipOf] at hfm
      refine ⟨hmem, hslot, hfl, hmq, hst, fun h => ?_, hfm⟩
      obtain ⟨g', cond', hs'⟩ := shapeOf_jumpOf c f
      rw [← h, hs] at hs'
      cases hs'
  · rintro ind x y (rfl | rfl)
    · obtain ⟨⟨hmem, hslot, hfl, hmq, hst⟩, hfm, -⟩ :=
        exec_jump_skip_frame (i := .jrst ind x y) rfl nofun rfl (.inl rfl) ht
      exact ⟨hmem, hslot, hfl, hmq, hst, hfm rfl⟩
    · obtain rfl : (s.setIr (encode (.jrstFast y))).setPc y = t := Host.Outcome.next.inj ht
      exact ⟨fun _ => rfl, fun _ => rfl, rfl, rfl, rfl, rfl⟩

/-! ## The registers that no rule writes -/

/-- No part of a monitor call writes MQ or the parameters: not the host steps, the writes or the registers of a reply. -/
theorem muuoCall_keeps_mq_config {w : Word} {e : Addr} {s t : State} (h : muuoCall w e s = .next t) :
    t.mq = s.mq ∧ t.config = s.config := by
  obtain ⟨-, rfl⟩ | ⟨eff, -, h⟩ := muuoCall_eq_next h
  · exact ⟨rfl, rfl⟩
  refine serviceContinue_keeps (P := fun u => u.mq = s.mq ∧ u.config = s.config) (fun op _ u v hu hv => ?_)
    (fun a x u v hu hv => ?_) (fun u hu => ?_) ?_ h
  · rw [hv.keeps_registers]; exact hu
  · obtain ⟨-, rfl⟩ | ⟨-, m, d, l, rfl, -, -⟩ := memWrite_eq_next hv <;> exact hu
  · rw [serviceRegs_eq]; exact hu
  · rw [drawReply_snd]; exact ⟨rfl, rfl⟩

/-- Settles O58: outside the monitor calls by the uops of the instruction, and for those by the parts of a reply. -/
theorem flagsAndMqUntouched : Obligations.FlagsAndMqUntouched := by
  intro i s t ht
  cases exec_eq_next ht with
  | hang | fast => exact ⟨rfl, rfl, fun _ _ => rfl⟩
  | uops hs hop =>
    obtain ⟨hmq, -, -, hc⟩ := exec_keeps_rest (not_monitorCall_of_shapeOf hs hop) ht
    exact ⟨hmq, hc, fun _ hd => exec_keeps_flags hs hop (draws_of_not_drawsFlags hs hd) ht⟩
  | call hf _ hm =>
    obtain ⟨hmq, hc⟩ := muuoCall_keeps_mq_config hm
    exact ⟨hmq, hc, fun hn => absurd hf (hn _)⟩

/-! ## The host's store, and the states without a step -/

/-- A store gives a next state where its address is mapped or the draw lets it allocate (20_memory.md R56, R73). -/
theorem setWordAt_succeeds {a : Addr} (w : Word) {s : State}
    (h : (∃ v, s.memGet a = some v) ∨ (drawAlloc s).1 = false) : ∃ t, setWordAt a w s = .next t := by
  unfold setWordAt
  cases hm : s.memGet a with
  | some v => exact ⟨_, rfl⟩
  | none =>
    have hd : (drawAlloc s).1 = false := h.resolve_left (by simp [hm])
    exact ⟨_, if_neg (Bool.eq_false_iff.mp hd)⟩

theorem hostStep_writeMemory {s : State} (hr : s.status = .running) (a : Addr) (w : Word) :
    hostStep (.writeMemory a.toNat w.toNat) s = doneWith (writeMemory a w s) := by
  rw [hostStep_of_running hr, hostOp, withAddr_of_lt a.isLt, withWord_of_lt w.isLt]
  simp

/-- Settles O20: the store and then the invalidation, of the one address. -/
theorem hostWriteInvalidates : Obligations.HostWriteInvalidates := by
  intro a w s hr
  rw [hostStep_writeMemory hr]
  refine ⟨fun h => ?_, fun hm hd => ?_⟩
  · obtain ⟨u, hu⟩ := setWordAt_succeeds w h
    have ht : doneWith (writeMemory a w s) = .next (invalidateWord a u, .done) := by rw [writeMemory, hu]; rfl
    obtain ⟨m, d, l, rfl, hg, -⟩ := setWordAt_eq_next hu
    refine ⟨_, ht, rfl, (hg a.toNat).trans (if_pos rfl), ?_, fun b hb => ⟨?_, ?_⟩⟩
    · exact (slotAt_setSlot _ a a .stub).trans (if_pos rfl)
    · exact (hg b.toNat).trans (if_neg fun h => hb (BitVec.eq_of_toNat_eq h))
    · exact (slotAt_setSlot _ a b .stub).trans (if_neg hb)
  · rw [← drawAlloc_snd]
    simp [writeMemory, setWordAt, hm, hd, raise, andThen, doneWith]

/-- Settles O11: `step` and `hostStep` test the status, and `step` then `started`, before anything else. -/
theorem noStepUnlessLive : Obligations.NoStepUnlessLive := fun s =>
  ⟨fun hr hs => by simp [step, hr, hs], fun hn => ⟨if_pos hn, fun _ => hostStep_of_not_running hn⟩⟩

end Sys2Proof.Machine
end

section
/-! PROOFS. The hidden registers do not show (10_state.md R28, R30, R39): two states that differ in them alone are taken by every
operation to outcomes that differ in them alone. -/

namespace Sys2Proof.Machine

open Claims

/-! ## The relation on states -/

namespace SameButHidden

variable {s t : State}

theorem pc (h : SameButHidden s t) : t.pc = s.pc := by rw [h]
theorem fm (h : SameButHidden s t) : t.fm = s.fm := by rw [h]
theorem mem (h : SameButHidden s t) : t.mem = s.mem := by rw [h]
theorem slots (h : SameButHidden s t) : t.slots = s.slots := by rw [h]
theorem status (h : SameButHidden s t) : t.status = s.status := by rw [h]
theorem cursor (h : SameButHidden s t) : t.cursor = s.cursor := by rw [h]
theorem started (h : SameButHidden s t) : t.started = s.started := by rw [h]
theorem config (h : SameButHidden s t) : t.config = s.config := by rw [h]
theorem draws (h : SameButHidden s t) : t.draws = s.draws := by rw [h]
theorem allocScript (h : SameButHidden s t) : t.allocScript = s.allocScript := by rw [h]

theorem memGet (h : SameButHidden s t) (a : Addr) : t.memGet a = s.memGet a := by rw [State.memGet, h.mem]; rfl
theorem slotAt (h : SameButHidden s t) (a : Addr) : t.slotAt a = s.slotAt a := by rw [State.slotAt, h.slots]; rfl
theorem aliasesFm (h : SameButHidden s t) (a : Addr) : aliasesFm t a = aliasesFm s a := by
  rw [Machine.aliasesFm, h.config]; rfl
theorem readFm (h : SameButHidden s t) (i : AcNum) : readFm t i = readFm s i := readFm_congr h.fm i
theorem memRead (h : SameButHidden s t) (a : Addr) : memRead t a = memRead s a := memRead_congr h.fm h.mem h.config a

theorem setPc (h : SameButHidden s t) (p : Addr) : SameButHidden (s.setPc p) (t.setPc p) := by rw [h]; rfl
theorem setIr (h : SameButHidden s t) (w : Word) : SameButHidden (s.setIr w) (t.setIr w) := by rw [h]; rfl
theorem latch (h : SameButHidden s t) (w : Word) : SameButHidden (s.latch w) (t.latch w) := by rw [h]; rfl
theorem setEa (h : SameButHidden s t) (e : Addr) (m n : Word) : SameButHidden (s.setEa e m) (t.setEa e n) := by rw [h]; rfl
theorem setMb (h : SameButHidden s t) (m n : Word) : SameButHidden (s.setMb m) (t.setMb n) := by rw [h]; rfl
theorem setAr (h : SameButHidden s t) (v w : Word) : SameButHidden (s.setAr v) (t.setAr w) := by rw [h]; rfl
theorem setBr (h : SameButHidden s t) (v w : Word) : SameButHidden (s.setBr v) (t.setBr w) := by rw [h]; rfl
theorem drawFlags (h : SameButHidden s t) : SameButHidden s.drawFlags t.drawFlags := by rw [h]; rfl
theorem setFm (h : SameButHidden s t) (i : AcNum) (v : Word) : SameButHidden (s.setFm i v) (t.setFm i v) := by rw [h]; rfl
theorem setMem (h : SameButHidden s t) (m : Memory) : SameButHidden (s.setMem m) (t.setMem m) := by rw [h]; rfl
theorem setSlot (h : SameButHidden s t) (a : Addr) (v : Slot) : SameButHidden (s.setSlot a v) (t.setSlot a v) := by rw [h]; rfl
theorem setStatus (h : SameButHidden s t) (x : Status) : SameButHidden (s.setStatus x) (t.setStatus x) := by rw [h]; rfl
theorem setCursor (h : SameButHidden s t) (c : Option Nat) : SameButHidden (s.setCursor c) (t.setCursor c) := by rw [h]; rfl

theorem drawAlloc_fst (h : SameButHidden s t) : (drawAlloc t).1 = (drawAlloc s).1 := by
  unfold drawAlloc
  rw [h.allocScript, h.draws]
  cases s.allocScript <;> rfl

theorem drawAlloc_snd (h : SameButHidden s t) : SameButHidden (drawAlloc s).2 (drawAlloc t).2 := by
  rw [Machine.drawAlloc_snd, Machine.drawAlloc_snd, h]
  rfl

theorem drawReply_snd (h : SameButHidden s t) (w : Word) (e : Addr) :
    SameButHidden (drawReply w e s).2 (drawReply w e t).2 := by
  rw [Machine.drawReply_snd, Machine.drawReply_snd, h]
  rfl

theorem newArea (h : SameButHidden s t) (a : Nat) (data : List Word) : newArea t a data = newArea s a data := by
  rw [Machine.newArea, h.draws]
  rfl

end SameButHidden

/-! ## The relation on outcomes -/

/-- The two outcomes differ in the hidden registers of their states alone. -/
abbrev SameOutcome (q r : Result) : Prop := OutcomesRelate SameButHidden q r

theorem SameButHidden.next {s t : State} (h : SameButHidden s t) : SameOutcome (.next s) (.next t) := h

theorem SameButHidden.raise {s t : State} (h : SameButHidden s t) (k : FaultKind) : SameOutcome (raise k s) (raise k t) :=
  ⟨rfl, h.setStatus _⟩

theorem SameButHidden.refuse {s t : State} (h : SameButHidden s t) (r : RefuseReason) :
    SameOutcome (refuse r s) (refuse r t) := ⟨rfl, h.setStatus _⟩

theorem SameOutcome.refused (x : Refusal) : SameOutcome (.refused x) (.refused x) := by
  cases x with
  | declined r s => exact ⟨rfl, .refl s⟩
  | notModelled | notStarted | ended => rfl

/-- Sequencing: what follows need only be related on the next states that the first outcome gives. -/
theorem SameOutcome.andThen_of_next {q r : Result} {k l : State → Result} (h : SameOutcome q r)
    (hk : ∀ s t, q = .next s → r = .next t → SameButHidden s t → SameOutcome (k s) (l t)) :
    SameOutcome (Machine.andThen q k) (Machine.andThen r l) := by
  unfold SameOutcome OutcomesRelate at h
  split at h
  · exact hk _ _ rfl rfl h
  · exact h
  · exact h
  · exact h
  · subst h; exact .refused _
  · exact h.elim

theorem SameOutcome.andThen {q r : Result} {k l : State → Result} (h : SameOutcome q r)
    (hk : ∀ s t, SameButHidden s t → SameOutcome (k s) (l t)) : SameOutcome (andThen q k) (andThen r l) :=
  h.andThen_of_next fun s t _ _ => hk s t

/-- Two results of EA calculation that agree but for what MB holds. -/
inductive SameEa : EaResult → EaResult → Prop where
  | done (e : Addr) (m n : Word) : SameEa (.done e m) (.done e n)
  | fault (k : FaultKind) (m n : Word) : SameEa (.fault k m) (.fault k n)
  | hang : SameEa .hang .hang

/-! ## Stores -/

section Operations

variable {s t : State} (h : SameButHidden s t)
include h

theorem setWordAt_same (a : Addr) (w : Word) : SameOutcome (setWordAt a w s) (setWordAt a w t) := by
  unfold setWordAt
  rw [h.memGet, h.mem, h.drawAlloc_fst, h.newArea]
  cases s.memGet a with
  | some v => exact h.setMem _
  | none =>
    cases (drawAlloc s).1 with
    | true => exact h.drawAlloc_snd.raise _
    | false => exact h.drawAlloc_snd.setMem _

theorem memWrite_same (a : Addr) (v : Word) : SameOutcome (memWrite a v s) (memWrite a v t) := by
  unfold memWrite
  rw [h.aliasesFm]
  split
  · exact h.setFm _ _
  · exact (setWordAt_same h a v).andThen fun _ _ hu => hu.setSlot _ _

/-! ## Host operations -/

theorem withAddr_same {a : Nat} {k l : Addr → HostResult} (hk : ∀ b, SameOutcome (dropReply (k b)) (dropReply (l b))) :
    SameOutcome (dropReply (withAddr a s k)) (dropReply (withAddr a t l)) := by
  unfold withAddr
  split
  · exact hk _
  · exact h.refuse _

theorem withWord_same {w : Nat} {k l : Word → HostResult} (hk : ∀ v, SameOutcome (dropReply (k v)) (dropReply (l v))) :
    SameOutcome (dropReply (withWord w s k)) (dropReply (withWord w t l)) := by
  unfold withWord
  split
  · exact hk _
  · exact h.refuse _

theorem addMemory_same (a : Nat) (data : List Nat) :
    SameOutcome (dropReply (addMemory a data s)) (dropReply (addMemory a data t)) := by
  unfold addMemory
  rw [h.mem, h.drawAlloc_fst, h.newArea]
  split
  · exact h.refuse _
  split
  · exact h.refuse _
  split
  · exact h
  split
  · exact h.refuse _
  split
  · exact h.drawAlloc_snd
  · exact h.drawAlloc_snd.setMem _

theorem hostRun_same (start : Nat) (memory : Memory) :
    SameOutcome (dropReply (hostRun start memory s)) (dropReply (hostRun start memory t)) := by
  unfold hostRun
  rw [h.started]
  split
  · exact h.refuse _
  split
  · exact h.refuse _
  · refine SameButHidden.next ?_
    rw [h]
    rfl

theorem getNext_same : SameOutcome (dropReply (getNext s)) (dropReply (getNext t)) := by
  unfold getNext
  rw [h.mem, h.cursor]
  split
  · exact h.setCursor _
  · exact h

theorem purePage_same (a : Nat) : SameButHidden (purePage a s) (purePage a t) := by rw [h]; rfl

theorem unpurePage_same (a : Nat) : SameButHidden (unpurePage a s) (unpurePage a t) := by rw [h]; rfl

theorem unmappedPage_same (a : Nat) : SameButHidden (unmappedPage a s) (unmappedPage a t) := by rw [h]; rfl

theorem hostOp_same (op : HostOp) : SameOutcome (dropReply (hostOp op s)) (dropReply (hostOp op t)) := by
  cases op <;> simp only [hostOp]
  case addMemory a data => exact addMemory_same h a data
  case setWordAt =>
    refine withAddr_same h fun a => withWord_same h fun w => ?_
    rw [dropReply_doneWith, dropReply_doneWith]
    exact setWordAt_same h a w
  case writeMemory =>
    refine withAddr_same h fun a => withWord_same h fun w => ?_
    rw [dropReply_doneWith, dropReply_doneWith]
    exact (setWordAt_same h a w).andThen fun _ _ hu => hu.setSlot a .stub
  case invalidateWord => exact withAddr_same h fun a => h.setSlot a .stub
  case purePage a => exact withAddr_same h fun _ => purePage_same h a
  case unpurePage a => exact withAddr_same h fun _ => unpurePage_same h a
  case unmappedPage a => exact withAddr_same h fun _ => unmappedPage_same h a
  case run start memory => exact hostRun_same h start memory
  case getWordAt => exact withAddr_same h fun _ => h
  case setAddress =>
    split
    · exact h.setCursor none
    · exact h.refuse _
  case getNext => exact getNext_same h

theorem hostStep_same (op : HostOp) : SameOutcome (dropReply (hostStep op s)) (dropReply (hostStep op t)) := by
  unfold hostStep
  rw [h.status]
  split
  · exact hostOp_same h op
  · rfl

/-! ## Monitor calls -/

theorem hostSteps_same (ops : List HostOp) : SameOutcome (hostSteps ops s) (hostSteps ops t) := by
  induction ops generalizing s t with
  | nil => exact h
  | cons op ops ih =>
    rw [hostSteps_cons, hostSteps_cons]
    exact (hostStep_same h op).andThen fun _ _ hu => ih hu

theorem serviceWrites_same (ws : List (Addr × Word)) : SameOutcome (serviceWrites ws s) (serviceWrites ws t) := by
  induction ws generalizing s t with
  | nil => exact h
  | cons x ws ih => exact (memWrite_same h x.1 x.2).andThen fun _ _ hu => ih hu

theorem serviceFm_same (ws : List (AcNum × Word)) : SameButHidden (serviceFm ws s) (serviceFm ws t) := by
  induction ws generalizing s t with
  | nil => exact h
  | cons x ws ih => exact ih (h.setFm x.1 x.2)

theorem serviceRegs_same (eff : ServiceEffect) : SameButHidden (serviceRegs eff s) (serviceRegs eff t) := by
  unfold serviceRegs
  rw [serviceFm_same h eff.fm]
  rfl

theorem serviceContinue_same (eff : ServiceEffect) : SameOutcome (serviceContinue eff s) (serviceContinue eff t) :=
  (hostSteps_same h eff.host).andThen fun _ _ hu =>
    (serviceWrites_same hu eff.mem).andThen fun _ _ hv => serviceRegs_same hv eff

/-- The same call with the same reply does the same in both. -/
theorem muuoCall_same {w : Word} {e : Addr} (hn : callNumber s w e = callNumber t w e)
    (hr : (drawReply w e s).1 = (drawReply w e t).1) : SameOutcome (muuoCall w e s) (muuoCall w e t) := by
  have served : SameOutcome (servedCall w e s) (servedCall w e t) := by
    unfold servedCall
    rw [← hr, ← hn]
    cases (drawReply w e s).1 with
    | cont eff => exact serviceContinue_same (h.drawReply_snd w e) eff
    | fault k => exact (h.drawReply_snd w e).raise _
    | noReturn => exact h
  unfold muuoCall
  rw [h.config, ← hn]
  cases namedService s.config (callNumber s w e) with
  | none => exact h.raise _
  | some v =>
    cases v with
    | dotLogout => exact h.setStatus _
    | dotOpen | dotSuset | dotEval => exact served

/-! ## Effective address -/

theorem indexed_same (w : Word) : indexed t w = indexed s w := by
  unfold indexed
  rw [h.readFm]

theorem calcEA_same (n : Nat) (w m m' : Word) : SameEa (calcEA n s w m) (calcEA n t w m') := by
  induction n generalizing w m m' with
  | zero => exact .hang
  | succ n ih =>
    rw [calcEA_succ, calcEA_succ, indexed_same h]
    cases indexed s w with
    | error k => exact .fault k m m'
    | ok e =>
      dsimp only
      rw [h.memRead]
      split
      · cases memRead s e with
        | error k => exact .fault k m m'
        | ok v => exact ih v v v
      · exact .done e m m'

theorem eaOf_same (w : Word) : SameEa (eaOf s w) (eaOf t w) := calcEA_same h eaLevels w s.mb t.mb

end Operations

/-! ## The generic step -/

/-- The states agree, but for hidden registers that the uops after read-operands `rd` do not read. -/
structure SameRead (rd : Rd) (s t : State) : Prop where
  hidden : SameButHidden s t
  ac : t.ac = s.ac
  ar : rd ≠ .none → t.ar = s.ar
  br : rd = .acMem ∨ rd = .acImm → t.br = s.br

/-- What the operate and write-back uops read of AR and BR, the read-operands uop has written. -/
def readsWhatItUses (rd : Rd) (op : Op) (wb : Wb) : Bool :=
  (rd != .none || ((op == .jrst || op == .muuo) && wb == .none)) &&
    (!(op == .add || op == .sub) || rd == .acMem || rd == .acImm)

/-- The same of a shape. -/
def Shape.readsWhatItUses : Shape → Bool
  | .uops _ rd op _ wb => Machine.readsWhatItUses rd op wb
  | .fast _ | .refused _ => true

theorem shapeOf_readsWhatItUses (i : Instr) : (shapeOf i).readsWhatItUses = true := by
  cases i <;> rfl

/-- Read-operands in both: one fault, or the same operands to go on with. -/
theorem readOperands_same {rd : Rd} {e : Addr} {s t : State} (h : SameButHidden s t) (hac : t.ac = s.ac)
    {k l : State → Result} (hk : ∀ u v, SameRead rd u v → SameOutcome (k u) (l v)) :
    SameOutcome (andThen (readOperands rd e s) k) (andThen (readOperands rd e t) l) := by
  cases rd with
  | none => exact hk _ _ ⟨h, hac, nofun, nofun⟩
  | imm => exact hk _ _ ⟨h.setAr _ _, hac, fun _ => rfl, nofun⟩
  | mem =>
    unfold readOperands
    rw [h.memRead]
    cases memRead s e with
    | error j => exact h.raise j
    | ok v => exact hk _ _ ⟨h.setAr v v, hac, fun _ => rfl, nofun⟩
  | ac =>
    unfold readOperands
    rw [hac, h.readFm]
    cases readFm s s.ac with
    | error j => exact h.raise j
    | ok v => exact hk _ _ ⟨h.setAr v v, hac, fun _ => rfl, nofun⟩
  | acMem =>
    unfold readOperands
    rw [hac, h.readFm]
    cases readFm s s.ac with
    | error j => exact h.raise j
    | ok u =>
      simp only [withRead, memRead_setAr]
      rw [h.memRead]
      cases memRead s e with
      | error j => exact (h.setAr u u).raise j
      | ok v => exact hk _ _ ⟨(h.setAr u u).setBr v v, hac, fun _ => rfl, fun _ => rfl⟩
  | acImm =>
    unfold readOperands
    rw [hac, h.readFm]
    cases readFm s s.ac with
    | error j => exact h.raise j
    | ok u => exact hk _ _ ⟨(h.setAr u u).setBr _ _, hac, fun _ => rfl, fun _ => rfl⟩

section Operate

variable {rd : Rd} {op : Op} {wb : Wb} {s t : State}

theorem operate_same (h : SameButHidden s t) : SameButHidden (operate op s) (operate op t) := by
  cases op with
  | neg | add | sub => exact (h.setAr _ _).drawFlags
  | pass | jump | skip | jrst | muuo => exact h

theorem operate_ac (op : Op) (s : State) : (operate op s).ac = s.ac := by cases op <;> rfl

/-- AR after the operate uop is the same where read-operands has written what it uses. -/
theorem operate_ar_same (h : SameRead rd s t) (hu : readsWhatItUses rd op wb = true) (hwb : wb ≠ .none) :
    (operate op t).ar = (operate op s).ar := by
  have har : t.ar = s.ar := h.ar fun hr => by subst hr; cases wb <;> simp [readsWhatItUses] at hu hwb
  cases op with
  | pass | jump | skip | jrst | muuo => exact har
  | neg => exact congrArg (-·) har
  | add | sub =>
    have hbr : t.br = s.br := h.br (by cases rd <;> simp [readsWhatItUses] at hu ⊢)
    simp [operate, har, hbr]

theorem nextPc_same (h : SameRead rd s t) (hu : readsWhatItUses rd op wb = true) (cond : BitVec 3) (e : Addr) :
    nextPc op cond e t = nextPc op cond e s := by
  cases op with
  | jrst => rfl
  | pass | neg | add | sub | muuo => exact congrArg (· + 1) h.hidden.pc
  | jump | skip =>
    have har : t.ar = s.ar := h.ar fun hr => by subst hr; simp [readsWhatItUses] at hu
    simp only [nextPc, har, h.hidden.pc]

theorem memWrite_keeps_ac_ar {e : Addr} {x : Word} {s u : State} (h : memWrite e x s = .next u) :
    u.ac = s.ac ∧ u.ar = s.ar := by
  obtain ⟨-, rfl⟩ | ⟨-, m, d, l, rfl, -, -⟩ := memWrite_eq_next h <;> exact ⟨rfl, rfl⟩

/-- After a write to memory AC and AR still agree, so what WB_BOTH and WB_SELF write then does. -/
theorem memWrite_andThen_same (h : SameButHidden s t) (hac : t.ac = s.ac) (har : t.ar = s.ar) (e : Addr) {k : State → Result}
    (hk : ∀ u v, SameButHidden u v → v.ac = u.ac → v.ar = u.ar → SameOutcome (k u) (k v)) :
    SameOutcome (andThen (memWrite e s.ar s) k) (andThen (memWrite e t.ar t) k) := by
  rw [har]
  refine (memWrite_same h e s.ar).andThen_of_next fun u v hu hv huv => ?_
  obtain ⟨hua, hur⟩ := memWrite_keeps_ac_ar hu
  obtain ⟨hva, hvr⟩ := memWrite_keeps_ac_ar hv
  exact hk u v huv (by rw [hua, hva, hac]) (by rw [hur, hvr, har])

theorem writeBack_same (h : SameButHidden s t) (hac : t.ac = s.ac) (har : wb ≠ .none → t.ar = s.ar) (e : Addr) :
    SameOutcome (writeBack wb e s) (writeBack wb e t) := by
  cases wb <;> simp only [writeBack]
  case none => exact h
  case ac => rw [hac, har nofun]; exact h.setFm _ _
  case mem => rw [har nofun]; exact memWrite_same h e s.ar
  case both =>
    refine memWrite_andThen_same h hac (har nofun) e fun u v huv hua hur => ?_
    rw [hua, hur]
    exact huv.setFm _ _
  case self =>
    refine memWrite_andThen_same h hac (har nofun) e fun u v huv hua hur => ?_
    rw [hua, hur]
    split
    · exact huv
    · exact huv.setFm _ _
  case acNz =>
    rw [hac, har nofun]
    split
    · exact h
    · exact h.setFm _ _

end Operate

theorem operateAndWriteBack_same {w : Word} {rd : Rd} {op : Op} {cond : BitVec 3} {wb : Wb} {e : Addr} {s t : State}
    (h : SameRead rd s t) (hu : readsWhatItUses rd op wb = true) (hop : op ≠ .muuo) :
    SameOutcome (operateAndWriteBack w op cond wb e s) (operateAndWriteBack w op cond wb e t) := by
  simp only [operateAndWriteBack, if_neg hop, nextPc_same h hu]
  refine (writeBack_same (operate_same h.hidden) ?_ (operate_ar_same h hu) e).andThen fun _ _ hv => hv.setPc _
  rw [operate_ac, operate_ac, h.ac]

theorem execGeneric_same {w : Word} {rd : Rd} {op : Op} {cond : BitVec 3} {wb : Wb} {s t : State} (h : SameButHidden s t)
    (hu : readsWhatItUses rd op wb = true) (hop : op ≠ .muuo) :
    SameOutcome (execGeneric w rd op cond wb s) (execGeneric w rd op cond wb t) := by
  have he := eaOf_same h w
  unfold execGeneric
  generalize eaOf s w = x, eaOf t w = y at he
  cases he with
  | done e m n => exact readOperands_same ((h.latch w).setEa e m n) rfl fun _ _ hr => operateAndWriteBack_same hr hu hop
  | fault k m n => exact ((h.latch w).setMb m n).raise k
  | hang => exact h

theorem execMuuo_same {f : Basic} {i : Instr} {s t : State} (h : SameButHidden s t) (hf : monitorCall f i)
    (hc : calledAlike i s t) (cond : BitVec 3) :
    SameOutcome (execGeneric (encode i) .none .muuo cond .none s) (execGeneric (encode i) .none .muuo cond .none t) := by
  have he := eaOf_same h (encode i)
  generalize hs : eaOf s (encode i) = x, ht : eaOf t (encode i) = y at he
  cases he with
  | done e m n =>
    obtain ⟨hn, hr⟩ := hc f e m n hf hs ht
    simp only [calledNumber, replyTo, entered_of_monitorCall hf] at hn hr
    rw [execGeneric_muuo hs, execGeneric_muuo ht]
    exact muuoCall_same ((h.latch _).setEa e m n) hn hr
  | fault k m n =>
    simp only [execGeneric, hs, ht]
    exact ((h.latch _).setMb m n).raise k
  | hang =>
    simp only [execGeneric, hs, ht]
    exact h

/-! ## Every instruction and every step -/

theorem gated_same {g : Gate} {w : Word} {m : State → Result} {s t : State} (h : SameButHidden s t)
    (hm : SameOutcome (m s) (m t)) : SameOutcome (gated g w m s) (gated g w m t) := by
  unfold gated
  rw [h.config]
  split
  · exact hm
  · exact (h.setIr w).refuse _

theorem exec_same {i : Instr} {s t : State} (h : SameButHidden s t) (hc : calledAlike i s t) :
    SameOutcome (exec i s) (exec i t) := by
  rw [exec_eq_shape, exec_eq_shape]
  have hu := shapeOf_readsWhatItUses i
  cases hs : shapeOf i with
  | uops g rd op cond wb =>
    refine gated_same h ?_
    by_cases hop : op = .muuo
    · subst hop
      obtain ⟨⟨f, hf⟩, hb⟩ := shapeOf_muuo hs
      cases hs.symm.trans hb
      exact execMuuo_same h hf hc 0
    · rw [hs] at hu
      exact execGeneric_same h hu hop
  | fast y => exact (h.setIr _).setPc y
  | refused r => exact (h.setIr _).refuse _

theorem decodeStep_same {s t : State} (h : SameButHidden s t) : SameOutcome (decodeStep s) (decodeStep t) := by
  unfold decodeStep
  rw [h.pc, h.memGet, h.config]
  split
  · exact h.setSlot _ _
  · exact h.raise _

theorem step_same {s t : State} (h : SameButHidden s t)
    (hc : ∀ sel, s.slotAt s.pc = .decoded sel → dec s.config sel.word = sel ∧ calledAlike (decode sel.word) s t) :
    SameOutcome (step s) (step t) := by
  unfold step
  rw [h.status, h.started, h.pc, h.slotAt]
  split
  · exact .refused _
  split
  · exact .refused _
  split
  · exact decodeStep_same h
  · unfold enterUnmapped
    rw [h.pc]
    exact h.raise _
  next sel hs =>
    obtain ⟨hd, hcall⟩ := hc sel hs
    rw [enterDecoded_of_dec hd, enterDecoded_of_dec (h.config ▸ hd)]
    exact exec_same h hcall

/-- Settles O59: the relation is kept operation by operation, for each uop reads of AR, BR and AC only what an earlier uop of
the same step has written there. -/
theorem hiddenRegistersDoNotShow : Obligations.HiddenRegistersDoNotShow :=
  fun _ _ h => ⟨fun _ hc => exec_same h hc, fun hc => step_same h hc⟩

end Sys2Proof.Machine
end

section
/-! PROOFS. The block's own decoder gives each word the selection that its row of the opcode table runs (30_encoding.md R86,
40_decode_dispatch.md R111), so a slot runs its selection whether or not `DEC` gives it. -/

namespace Sys2Proof.Machine

/-! ## The selection of a shape -/

/-- The selection that a shape stands for, under the gates (40_decode_dispatch.md R111). -/
def Shape.sel (sh : Shape) (c : Config) (w : Word) : Sel :=
  match sh with
  | .uops g rd op cond wb => if g.admits c then .generic w rd op cond wb else .refuse w .notAdmitted
  | .fast y => .fastJump w y
  | .refused r => .refuse w r

/-- A shape runs as the selection that it stands for. -/
theorem Shape.run_eq_execSel (sh : Shape) (w : Word) (s : State) : sh.run w s = execSel (sh.sel s.config w) s := by
  cases sh with
  | uops g rd op cond wb =>
    obtain ⟨ha, hg⟩ | ⟨ha, hg⟩ := gated_cases g w (execGeneric w rd op cond wb) s <;>
      simp only [Shape.run, Shape.sel, hg, ha] <;> rfl
  | fast y => rfl
  | refused r => rfl

/-! ## What `DEC` selects -/

theorem dec_of_io (c : Config) {w : Word} (h : classOf w = 7) :
    dec c w = (shapeOf (decodeIo (fnOf w) (ioOf w))).sel c w := by
  unfold dec
  rw [if_pos h]
  generalize fnOf w = fn
  obtain ⟨n, hn⟩ := fn
  interval_cases n <;> rfl

theorem rom_of_not_mem {op : Nat} (h : op ∉ romOpcodes) : rom op = none := by
  unfold rom
  split
  case h_33 => rfl
  all_goals exact absurd (by decide) h

theorem decodeBasic_of_not_mem {op : Nat} (h : op ∉ namedOpcodes) (f : Basic) (w : Word) :
    decodeBasic op f w = .unlisted w := by
  unfold decodeBasic
  split
  case h_70 => rfl
  all_goals exact absurd (by decide) h

theorem dec_of_unnamed (c : Config) {w : Word} (h : classOf w ≠ 7) (hn : (opOf w).toNat ∉ namedOpcodes) :
    dec c w = .refuse w .unlisted := by
  simp only [namedOpcodes, singleOpcodes, List.mem_append, List.mem_cons, List.not_mem_nil, or_false, not_or] at hn
  obtain ⟨⟨⟨hm, hx⟩, he, hj⟩, hr⟩ := hn
  rw [dec, if_neg h]
  simp [hm, hx, he, hj, rom_of_not_mem hr]

/-- The three rows of JRST, in the order of their priority (R111). -/
theorem dec_of_jrst (c : Config) {w : Word} (h : classOf w ≠ 7) (hop : opOf w = 0o254) :
    dec c w = (shapeOf (decodeJrst (basicOf w))).sel c w := by
  have hd : dec c w = if acOf w ≠ 0 then .refuse w .jrstAcNonzero
      else if indOf w = false ∧ xOf w = 0 then .fastJump w (yOf w) else .generic w .none .jrst 0 .none := by
    rw [dec, if_neg h, hop]; rfl
  have hj : decodeJrst (basicOf w) = if acOf w ≠ 0 then .jrstAc (basicOf w)
      else if indOf w = false ∧ xOf w = 0 then .jrstFast (yOf w) else .jrst (indOf w) (xOf w) (yOf w) := rfl
  rw [hd, hj]
  by_cases ha : acOf w ≠ 0
  · rw [if_pos ha, if_pos ha]; rfl
  · rw [if_neg ha, if_neg ha]
    split <;> rfl

theorem dec_of_named (c : Config) {w : Word} {n : Nat} (h : classOf w ≠ 7) (hn : n ∈ namedOpcodes) (hj : n ≠ 0o254)
    (hop : opOf w = BitVec.ofNat 9 n) : dec c w = (shapeOf (decodeBasic n (basicOf w) w)).sel c w := by
  have hn : n ∈ namedOpcodes.erase 0o254 := (List.mem_erase_of_ne hj).mpr hn
  rw [dec, if_neg h, condOf_eq_opOf, hop]
  fin_cases hn <;> rfl

theorem dec_of_basic (c : Config) {w : Word} (h : classOf w ≠ 7) :
    dec c w = (shapeOf (decodeBasic (opOf w).toNat (basicOf w) w)).sel c w := by
  by_cases hn : (opOf w).toNat ∈ namedOpcodes
  · by_cases hj : (opOf w).toNat = 0o254
    · rw [hj]
      exact dec_of_jrst c h (BitVec.eq_of_toNat_eq hj)
    · exact dec_of_named c h hn hj (by simp)
  · rw [dec_of_unnamed c h hn, decodeBasic_of_not_mem hn]
    rfl

/-- The block's own decoder gives a word the selection that the shape of its instruction stands for. -/
theorem dec_eq_sel_shapeOf (c : Config) (w : Word) : dec c w = (shapeOf (decode w)).sel c w := by
  unfold decode
  split
  next h => exact dec_of_io c h
  next h => exact dec_of_basic c h

/-! ## Running a selection -/

theorem exec_decode (w : Word) (s : State) : exec (decode w) s = execSel (dec s.config w) s := by
  rw [exec_eq_shape, encode_decode, Shape.run_eq_execSel, dec_eq_sel_shapeOf]

/-- So a DECODED slot runs its selection, whether or not `DEC` gives it. -/
theorem enterDecoded_eq_execSel (sel : Sel) (s : State) : enterDecoded sel s = execSel sel s := by
  by_cases h : dec s.config sel.word = sel
  · rw [enterDecoded_of_dec h, exec_decode, h]
  · simp [enterDecoded, Sel.instr?, h]

end Sys2Proof.Machine
end

section
/-! PROOFS. The area invariant and the canonical slots (20_memory.md R53, 10_state.md R21): what keeps them, and that every step
and every host operation does. -/

namespace Sys2Proof.Machine

/-- A new area in a free range below the last address keeps the area invariant (20_memory.md R57, R58). -/
theorem insert_newArea_wf {m : Memory} {s : State} {a : Nat} {data : List Word} (h : m.wf) (hd : data ≠ [])
    (hn : a + data.length ≤ addressCount) (ho : overlapsArea m a (a + data.length) = false) :
    (insertArea (newArea s a data) m).wf :=
  insertArea_wf h hd hn ho

namespace State.Wf

variable {s t : State}

/-- The invariant speaks of memory and slots alone. -/
theorem congr (h : s.Wf) (hm : t.mem = s.mem) (hs : t.slots = s.slots) : t.Wf := by
  rw [State.Wf, hm, hs]
  exact h

theorem setSlot (h : s.Wf) (a : Addr) (v : Slot) : (s.setSlot a v).Wf :=
  ⟨h.1, slotSet_wf v h.2 a.isLt⟩

theorem fill (h : s.Wf) {a : Nat} (ha : a < addressCount) (f : Nat → Slot) : (s.setSlots (slotFill s.slots a f)).Wf :=
  ⟨h.1, slotFill_wf f h.2 ha⟩

theorem setWordAt {a : Addr} {w : Word} (h : s.Wf) (ht : setWordAt a w s = .next t) : t.Wf := by
  obtain ⟨m, d, l, rfl, -, hm⟩ := setWordAt_eq_next ht
  exact ⟨hm h.1, h.2⟩

theorem memWrite {a : Addr} {v : Word} (h : s.Wf) (ht : memWrite a v s = .next t) : t.Wf := by
  obtain ⟨-, rfl⟩ | ⟨-, m, d, l, rfl, -, hm⟩ := memWrite_eq_next ht
  · exact h.congr rfl rfl
  · exact ⟨hm h.1, slotSet_wf .stub h.2 a.isLt⟩

/-! ## Host operations -/

theorem hostGoesOn {op : HostOp} (h : s.Wf) (ht : HostGoesOn s op t) : t.Wf := by
  cases ht with
  | duplicate | getWordAt => exact h
  | noRoom => rw [drawAlloc_snd]; exact h.congr rfl rfl
  | newArea hd hn ho =>
    rw [drawAlloc_snd]
    exact ⟨insert_newArea_wf h.1 (by simpa using hd) (by simpa using hn) (by simpa using ho), h.2⟩
  | setWordAt _ ht => exact h.setWordAt ht
  | writeMemory _ ht => exact (h.setWordAt ht).setSlot _ _
  | invalidateWord => exact h.setSlot _ _
  | purePage ha | unpurePage ha | unmappedPage ha => exact h.fill ha _
  | run _ hm => exact ⟨hm, h.2⟩
  | setAddress | getNext => exact h.congr rfl rfl

/-! ## The step -/

theorem muuoCall {w : Word} {e : Addr} (h : s.Wf) (ht : muuoCall w e s = .next t) : t.Wf := by
  obtain ⟨-, rfl⟩ | ⟨eff, -, ht⟩ := muuoCall_eq_next ht
  · exact h.congr rfl rfl
  · refine serviceContinue_keeps (fun op _ s t hs => hs.hostGoesOn) (fun a v s t hs => hs.memWrite) (fun s hs => ?_) ?_ ht
    · rw [serviceRegs_eq]; exact hs.congr rfl rfl
    · rw [drawReply_snd]; exact h.congr rfl rfl

theorem writeBack {wb : Wb} {e : Addr} (h : s.Wf) (ht : writeBack wb e s = .next t) : t.Wf := by
  by_cases hr : wb = .none ∨ wb = .ac ∨ wb = .acNz
  · rw [writeBack_register hr ht]
    exact h.congr rfl rfl
  · obtain ⟨u, hu, rfl | ⟨-, -, rfl⟩⟩ := writeBack_memory (by cases wb <;> simp at hr ⊢) ht
    · exact h.memWrite hu
    · exact (h.memWrite hu).congr rfl rfl

theorem operate (h : s.Wf) (op : Op) : (operate op s).Wf := by
  rw [operate_eq]
  exact h.congr rfl rfl

theorem operateAndWriteBack {w : Word} {op : Op} {cond : BitVec 3} {wb : Wb} {e : Addr} (h : s.Wf)
    (ht : operateAndWriteBack w op cond wb e s = .next t) : t.Wf := by
  unfold Machine.operateAndWriteBack at ht
  split at ht <;> obtain ⟨u, hu, ht⟩ := andThen_eq_next.mp ht
  · have hu := h.muuoCall hu
    split at ht
    · exact hu.writeBack ht
    · cases ht; exact hu
  · cases ht
    exact ((h.operate op).writeBack hu).congr rfl rfl

/-- Whatever uops a selection names, its step keeps the invariant. -/
theorem execGeneric {w : Word} {rd : Rd} {op : Op} {cond : BitVec 3} {wb : Wb} (h : s.Wf)
    (ht : execGeneric w rd op cond wb s = .next t) : t.Wf := by
  unfold Machine.execGeneric at ht
  split at ht
  · cases ht; exact h
  · exact absurd ht raise_ne_next
  · obtain ⟨u, hu, ht⟩ := andThen_eq_next.mp ht
    refine operateAndWriteBack ?_ ht
    rw [readOperands_eq_next hu]
    exact h.congr rfl rfl

theorem execSel {sel : Sel} (h : s.Wf) (ht : execSel sel s = .next t) : t.Wf := by
  cases sel with
  | generic w rd op cond wb => exact h.execGeneric ht
  | fastJump w y => cases ht; exact h.congr rfl rfl
  | refuse w r => exact absurd ht refuse_ne_next

theorem decodeStep (h : s.Wf) (ht : decodeStep s = .next t) : t.Wf := by
  unfold Machine.decodeStep at ht
  split at ht
  · cases ht; exact h.setSlot _ _
  · exact absurd ht raise_ne_next

theorem step (h : s.Wf) (ht : step s = .next t) : t.Wf := by
  obtain ⟨-, ⟨-, ht⟩ | ⟨sel, -, ht⟩⟩ := step_eq_next ht
  · exact h.decodeStep ht
  · rw [enterDecoded_eq_execSel] at ht
    exact h.execSel ht

end State.Wf

/-- Settles O52: operation by operation of the host, and uop by uop of a step. -/
theorem stepKeepsWellFormed : Obligations.StepKeepsWellFormed :=
  ⟨fun _ _ h ht => h.step ht, fun _ _ _ _ h ht => h.hostGoesOn (hostStep_eq_next ht).2⟩

/-- Settles O51: at either start memory has no area and every slot is STUB. -/
theorem resetKeepsInvariants : Obligations.ResetKeepsInvariants := by
  have hwf : State.reset.Wf := ⟨by decide, by decide⟩
  have hlock : State.reset.Lockstep := fun _ _ h => by cases h
  exact ⟨⟨hwf, hlock⟩, hwf.congr rfl rfl, hlock.congr rfl rfl rfl⟩

end Sys2Proof.Machine
end

section
/-! PROOFS. Operand reads, stores and the writes by the block (20_memory.md R55 to R62, R71): what each gives, under either value
of `ac_alias`. -/

namespace Sys2Proof.Machine

open Claims

/-! ## Reads -/

theorem aliasesFm_eq_true_iff {s : State} {a : Addr} :
    aliasesFm s a = true ↔ s.config.acAlias = .aliased ∧ a.toNat < 16 := by
  simp [aliasesFm]

theorem aliasesFm_eq_false_iff {s : State} {a : Addr} :
    aliasesFm s a = false ↔ s.config.acAlias = .separate ∨ 16 ≤ a.toNat := by
  cases h : s.config.acAlias <;> simp [aliasesFm, h]

theorem memRead_of_aliases {s : State} {a : Addr} (h : aliasesFm s a = true) : memRead s a = readFm s (aliasedAc a) :=
  if_pos h

theorem memRead_of_some {s : State} {a : Addr} {v : Word} (h : aliasesFm s a = false) (hm : s.memGet a = some v) :
    memRead s a = .ok v := by
  simp [memRead, h, hm]

theorem memRead_of_none {s : State} {a : Addr} (h : aliasesFm s a = false) (hm : s.memGet a = none) :
    memRead s a = .error (.unmapped a .read) := by
  simp [memRead, h, hm]

/-- Settles O15, on either side of `aliasesFm`. -/
theorem operandRead : Obligations.OperandRead := by
  intro s a
  refine ⟨fun h => ?_, fun hc ha => ?_, fun h => ?_⟩
  · rw [aliasedAc, BitVec.toNat_setWidth]
    exact Nat.mod_eq_of_lt h
  · rw [memRead_of_aliases (aliasesFm_eq_true_iff.mpr ⟨hc, ha⟩)]
    exact ⟨fun v => readFm_of_some, readFm_of_none⟩
  · have hf := aliasesFm_eq_false_iff.mpr h
    exact ⟨fun v => memRead_of_some hf, memRead_of_none hf⟩

/-! ## Stores -/

theorem setWordAt_of_mapped {a : Addr} {s : State} {v : Word} (w : Word) (h : s.memGet a = some v) :
    setWordAt a w s = .next (s.setMem (putWord s.mem a.toNat w)) := by
  simp [setWordAt, h]

theorem setWordAt_of_unmapped {a : Addr} {s : State} (w : Word) (h : s.memGet a = none) (hd : (drawAlloc s).1 = false) :
    setWordAt a w s = .next ((drawAlloc s).2.setMem (insertArea (newArea s a.toNat [w]) s.mem)) := by
  simp [setWordAt, h, hd]

theorem setWordAt_of_no_room {a : Addr} {s : State} (w : Word) (h : s.memGet a = none) (hd : (drawAlloc s).1 = true) :
    setWordAt a w s = raise .outOfMemory (drawAlloc s).2 := by
  simp [setWordAt, h, hd]

/-- A store into a covering area moves no bound of an area. -/
theorem putWord_bounds (m : Memory) (a : Nat) (w : Word) :
    (putWord m a w).map (fun x => (x.start, x.stop)) = m.map fun x => (x.start, x.stop) := by
  induction m with
  | nil => rfl
  | cons ar m ih =>
    rw [putWord]
    split
    · simp [Area.stop]
    · simp [ih]

/-- After a store the word is read back, and every other address reads as before. -/
theorem memGet_of_setWordAt {a : Addr} {w : Word} {s t : State} (h : setWordAt a w s = .next t) :
    t.memGet a = some w ∧ ∀ b, b ≠ a → t.memGet b = s.memGet b := by
  obtain ⟨m, d, l, rfl, hg, -⟩ := setWordAt_eq_next h
  exact ⟨(hg a.toNat).trans (if_pos rfl), fun b hb => (hg b.toNat).trans (if_neg fun h => hb (BitVec.eq_of_toNat_eq h))⟩

/-- Settles O16: by whether the address is mapped. -/
theorem storeThenLoad : Obligations.StoreThenLoad := by
  intro a w s
  refine ⟨fun h => ?_, fun hm hd => ?_⟩
  · cases hm : s.memGet a with
    | some v =>
      have ht := setWordAt_of_mapped w hm
      obtain ⟨hsame, helse⟩ := memGet_of_setWordAt ht
      exact ⟨_, ht, rfl, hsame, helse, nofun, fun _ => putWord_bounds _ _ _⟩
    | none =>
      have ht := setWordAt_of_unmapped w hm (h.resolve_left (by simp [hm]))
      obtain ⟨hsame, helse⟩ := memGet_of_setWordAt ht
      refine ⟨_, ht, ?_, hsame, helse, fun _ => ⟨_, mem_insertArea.mpr (.inl rfl)⟩, by simp⟩
      rw [drawAlloc_snd]
      rfl
  · rw [setWordAt_of_no_room w hm hd, drawAlloc_snd]

/-! ## Writes by the block -/

theorem memWrite_of_aliases {a : Addr} (v : Word) {s : State} (h : aliasesFm s a = true) :
    memWrite a v s = .next (s.setFm (aliasedAc a) v) := if_pos h

/-- A write by the block that reaches memory leaves the word, a STUB over it, and every accumulator. -/
theorem memWrite_to_memory {a : Addr} {v : Word} {s t : State} (h : memWrite a v s = .next t) (ha : aliasesFm s a = false) :
    t.memGet a = some v ∧ t.slotAt a = .stub ∧ t.fm = s.fm := by
  obtain ⟨ha', -⟩ | ⟨-, m, d, l, rfl, hg, -⟩ := memWrite_eq_next h
  · simp [ha] at ha'
  · exact ⟨(hg a.toNat).trans (if_pos rfl), (slotAt_setSlot s a a .stub).trans (if_pos rfl), rfl⟩

/-- Settles O17, by whether the address reaches an accumulator. -/
theorem blockWriteInvalidates : Obligations.BlockWriteInvalidates := by
  intro a v s t h
  refine ⟨fun ha => ?_, fun ha => ?_⟩
  · cases (memWrite_of_aliases v ha).symm.trans h
    rfl
  · obtain ⟨hmem, hslot, hfm⟩ := memWrite_to_memory h ha
    exact ⟨hmem, hslot, hfm, (memWrite_frame h).1⟩

theorem step_of_stub {s : State} (h : live s) (hs : s.slotAt s.pc = .stub) : step s = decodeStep s := by
  obtain ⟨hr, hl⟩ := h
  simp [step, hr, hl, hs]

theorem step_of_decoded {s : State} {sel : Sel} (h : live s) (hs : s.slotAt s.pc = .decoded sel) : step s = execSel sel s := by
  obtain ⟨hr, hl⟩ := h
  rw [← enterDecoded_eq_execSel]
  simp [step, hr, hl, hs]

theorem decodeStep_of_some {s : State} {w : Word} (h : s.memGet s.pc = some w) :
    decodeStep s = .next (s.setSlot s.pc (.decoded (dec s.config w))) := by
  simp [decodeStep, h]

/-- Settles O18: the slot of the address is STUB, so entering it decodes the word that memory holds. -/
theorem writtenWordIsDecodedNext : Obligations.WrittenWordIsDecodedNext := by
  intro a v s t h ha hl
  obtain ⟨hmem, hslot, -⟩ := memWrite_to_memory h ha
  exact (step_of_stub (s := t.setPc a) hl hslot).trans (decodeStep_of_some (s := t.setPc a) hmem)

/-- Settles O19: the store touches no slot, and a DECODED slot runs its selection whatever memory holds. -/
theorem rawHostWriteLeavesTheSlot : Obligations.RawHostWriteLeavesTheSlot := by
  intro a w s t r h
  obtain ⟨hr, ⟨⟩⟩ := hostStep_eq_next h
  next ha ht =>
  obtain ⟨hmem, -⟩ := memGet_of_setWordAt ht
  obtain ⟨m, d, l, rfl, -, -⟩ := setWordAt_eq_next ht
  exact ⟨rfl, hmem, fun sel _ hsel hstart => step_of_decoded ⟨hr, hstart⟩ hsel⟩

end Sys2Proof.Machine
end

section
/-! PROOFS. The area model as the host sees it (20_memory.md R53 to R59): the one covering area, `add_memory`, and the iteration
in address order. -/

namespace Sys2Proof.Machine

open Claims

/-! ## The covering area -/

/-- Where the areas are sorted and disjoint, the search finds any area that covers the address. -/
theorem findArea_of_covers {m : Memory} {ar : Area} {a : Nat} (h : m.Pairwise fun x y => x.stop ≤ y.start) (har : ar ∈ m)
    (hc : ar.covers a = true) : findArea m a = some ar := by
  unfold findArea
  induction m with
  | nil => cases har
  | cons br m ih =>
    obtain ⟨hbr, hm⟩ := List.pairwise_cons.mp h
    obtain rfl | har := List.mem_cons.mp har
    · exact List.find?_cons_of_pos hc
    · have hnot : ¬ br.covers a = true := by
        have hle := hbr ar har
        rw [Area.covers_iff] at hc ⊢
        omega
      exact (List.find?_cons_of_neg (p := fun x : Area => x.covers a) hnot).trans (ih hm har)

theorem getWord_of_covers {m : Memory} {ar : Area} {a : Nat} (h : m.wf) (har : ar ∈ m) (hc : ar.covers a = true) :
    getWord m a = ar.data[a - ar.start]? := by
  rw [getWord, findArea_of_covers h.1 har hc]
  rfl

theorem hostStep_getWordAt {s : State} (hr : s.status = .running) (a : Addr) :
    hostStep (.getWordAt a.toNat) s = .next (s, .word (s.memGet a)) := by
  rw [hostStep_of_running hr, hostOp, withAddr_of_lt a.isLt]
  simp

/-- Settles O21: where an area covers the address the search can find no other, and where none does it finds none. -/
theorem areaFoundIsUnique : Obligations.AreaFoundIsUnique := by
  have hnot {m : Memory} {a : Nat} (h : ∀ ar ∈ m, ¬ (ar.start ≤ a ∧ a < ar.stop)) : ∀ ar ∈ m, ar.covers a = false :=
    fun ar har => Bool.eq_false_iff.mpr ((Area.covers_iff ar a).not.mpr (h ar har))
  refine ⟨fun m a hm => ⟨fun ar har hlo hhi => ?_, fun h => ?_⟩, fun a s hr => ?_⟩
  · have hc := (Area.covers_iff ar a).mpr ⟨hlo, hhi⟩
    exact ⟨findArea_of_covers hm.1 har hc, getWord_of_covers hm har hc⟩
  · exact ⟨List.find?_eq_none.mpr fun ar har => Bool.eq_false_iff.mp (hnot h ar har), getWord_eq_none.mpr (hnot h)⟩
  · rw [hostStep_getWordAt hr, State.memGet]
    refine ⟨fun ar har hm hlo hhi => ?_, fun h => ?_⟩
    · rw [getWord_of_covers hm har ((Area.covers_iff ar _).mpr ⟨hlo, hhi⟩)]
    · rw [getWord_eq_none.mpr (hnot h)]

/-! ## `add_memory` -/

/-- A range meets an area exactly where it holds a mapped address, since no area is empty (R58). -/
theorem overlapsArea_eq_false_iff {m : Memory} {lo hi : Nat} (h : m.wf) (hlt : lo < hi) :
    overlapsArea m lo hi = false ↔ ∀ b, lo ≤ b → b < hi → getWord m b = none := by
  refine ⟨fun ho b => getWord_of_not_overlaps ho, fun hno => List.any_eq_false.mpr fun ar har hmeet => ?_⟩
  have hpos := List.length_pos_of_ne_nil (h.2 ar har).1
  obtain ⟨hs, hl⟩ : ar.start < hi ∧ lo < ar.stop := by simpa using hmeet
  have hc : ar.covers (max lo ar.start) = true :=
    (Area.covers_iff ar _).mpr ⟨le_max_right _ _, max_lt hl (Nat.lt_add_of_pos_right hpos)⟩
  have hfree := getWord_eq_none.mp (hno _ (le_max_left _ _) (max_lt hlt hs)) ar har
  exact Bool.false_ne_true (hfree.symm.trans hc)

/-- The check of `add_memory` is passed by words that lie below the last address where nothing is mapped (R58). -/
theorem addMemory_check_eq_false_iff {m : Memory} (h : m.wf) {a : Nat} {data : List Nat} :
    (data.isEmpty || addressCount < a + data.length || overlapsArea m a (a + data.length)) = false ↔
      data ≠ [] ∧ a + data.length ≤ 2 ^ 18 ∧ ∀ b, a ≤ b → b < a + data.length → getWord m b = none := by
  rw [Bool.or_eq_false_iff, Bool.or_eq_false_iff, List.isEmpty_eq_false_iff, decide_eq_false_iff_not, not_lt, and_assoc]
  refine and_congr_right fun hd => and_congr_right fun _ => overlapsArea_eq_false_iff h ?_
  have := List.length_pos_of_ne_nil hd
  omega

/-- The words of a new area, and every other address as before (R57). -/
theorem getWord_insert_newArea {m : Memory} {s : State} {a : Nat} {data : List Word}
    (hfree : ∀ b, a ≤ b → b < a + data.length → getWord m b = none) :
    (∀ b, b < a ∨ a + data.length ≤ b → getWord (insertArea (newArea s a data) m) b = getWord m b) ∧
    ∀ k, k < data.length → getWord (insertArea (newArea s a data) m) (a + k) = data[k]? := by
  refine ⟨fun b hb => getWord_insertArea_of_not_covers _ _ ?_, fun k hk => ?_⟩
  · rw [Bool.eq_false_iff, ne_eq, Area.covers_iff]
    simp only [newArea, Area.stop]
    omega
  · have hc : (newArea s a data).covers (a + k) = true := by
      rw [Area.covers_iff]
      simp only [newArea, Area.stop]
      omega
    rw [getWord_insertArea_of_covers _ hc (hfree _ (by omega) (by omega))]
    simp [newArea]

/-- `add_memory` after its checks of the arguments (R57, R58, R73). -/
theorem hostStep_addMemory {s : State} {a : Nat} {data : List Nat} (hr : s.status = .running) (ha : a < 2 ^ 18)
    (hd : ∀ w ∈ data, w < 2 ^ 36) :
    hostStep (.addMemory a data) s =
      if (getWord s.mem a).isSome then .next (s, .duplicate)
      else if data.isEmpty || addressCount < a + data.length || overlapsArea s.mem a (a + data.length) then
        refuse .areaOverlap s
      else if (drawAlloc s).1 then .next ((drawAlloc s).2, .outOfMemory)
      else .next ((drawAlloc s).2.setMem (insertArea (newArea s a (data.map (BitVec.ofNat 36))) s.mem), .done) := by
  have haddr : ¬ addressCount ≤ a := Nat.not_le.mpr ha
  have hwords : ¬ data.any (2 ^ 36 ≤ ·) = true := by simpa using hd
  rw [hostStep_of_running hr, hostOp, addMemory, if_neg haddr, if_neg hwords]

/-- Settles O22, check by check: the duplicate, the refusal, and the allocation by its draw. -/
theorem addMemoryRule : Obligations.AddMemoryRule := by
  intro a data s hr ha hd hm
  rw [hostStep_addMemory hr ha hd]
  refine ⟨fun hmap => ?_, fun hfree hbad => ?_, fun hne hend hfree => ?_⟩
  · exact if_pos (Option.isSome_iff_ne_none.mpr hmap)
  · refine (if_neg (by simp [hfree])).trans (if_pos (Bool.of_not_eq_false fun hpass => ?_))
    obtain ⟨hne, hend, hno⟩ := (addMemory_check_eq_false_iff hm).mp hpass
    obtain rfl | hlong | ⟨b, hlo, hhi, hb⟩ := hbad
    · exact hne rfl
    · omega
    · exact hb (hno b hlo hhi)
  · have hpos := List.length_pos_of_ne_nil hne
    have hpass := (addMemory_check_eq_false_iff hm).mpr ⟨hne, hend, hfree⟩
    rw [if_neg (by simp [hfree a le_rfl (by omega)]), if_neg (Bool.eq_false_iff.mp hpass), drawAlloc_snd]
    cases hdraw : (drawAlloc s).1 with
    | true => exact ⟨_, _, rfl, rfl, rfl, hm, fun _ => ⟨rfl, rfl⟩, nofun⟩
    | false =>
      have hlen : (data.map (BitVec.ofNat 36)).length = data.length := List.length_map _
      rw [← hlen] at hend hfree
      obtain ⟨helse, hwords⟩ := getWord_insert_newArea (s := s) hfree
      have hwf := insert_newArea_wf (s := s) hm (by simpa using hne) hend
        ((overlapsArea_eq_false_iff hm (by omega)).mpr hfree)
      rw [hlen] at helse hwords
      exact ⟨_, _, rfl, rfl, rfl, hwf, nofun, fun _ => ⟨rfl, helse, fun k hk => (hwords k hk).trans List.getElem?_map⟩⟩

/-! ## The iteration -/

theorem Area.mem_cells {ar : Area} {a : Nat} {w : Word} :
    (a, w) ∈ ar.cells ↔ ar.start ≤ a ∧ ar.data[a - ar.start]? = some w := by
  simp only [Area.cells, List.mem_mapIdx, Prod.mk.injEq]
  constructor
  · rintro ⟨i, hi, rfl, rfl⟩
    simp
  · rintro ⟨hle, hw⟩
    obtain ⟨hi, hw⟩ := List.getElem?_eq_some_iff.mp hw
    exact ⟨a - ar.start, hi, by omega, hw⟩

theorem Area.covers_of_mem_cells {ar : Area} {x : Nat × Word} (h : x ∈ ar.cells) : ar.covers x.1 = true := by
  obtain ⟨hle, hw⟩ := Area.mem_cells.mp h
  obtain ⟨hi, -⟩ := List.getElem?_eq_some_iff.mp hw
  rw [Area.covers_iff, Area.stop]
  omega

/-- The words of the iteration are the mapped words with their addresses. -/
theorem mem_memCells {m : Memory} (h : m.wf) {a : Nat} {w : Word} : (a, w) ∈ memCells m ↔ getWord m a = some w := by
  rw [memCells, List.mem_flatMap]
  constructor
  · rintro ⟨ar, har, hx⟩
    rw [getWord_of_covers h har (Area.covers_of_mem_cells hx)]
    exact (Area.mem_cells.mp hx).2
  · intro hw
    obtain ⟨ar, hf, hw⟩ := Option.bind_eq_some_iff.mp hw
    have hc := (Area.covers_iff ar a).mp (List.find?_some (p := fun x : Area => x.covers a) hf)
    exact ⟨ar, List.mem_of_find?_eq_some hf, Area.mem_cells.mpr ⟨hc.1, hw⟩⟩

/-- They come by rising address, since the areas are sorted and disjoint. -/
theorem memCells_sorted {m : Memory} (h : m.wf) : (memCells m).Pairwise fun x y => x.1 < y.1 := by
  refine List.pairwise_flatMap.mpr ⟨fun ar _ => ?_, h.1.imp fun hle x hx y hy => ?_⟩
  · rw [Area.cells, List.pairwise_iff_getElem]
    intro i j hi hj hij
    simpa using hij
  · have hx := (Area.covers_iff _ _).mp (Area.covers_of_mem_cells hx)
    have hy := (Area.covers_iff _ _).mp (Area.covers_of_mem_cells hy)
    omega

/-- The address comes after the cursor, as every address does before the first word (log 15). -/
def afterCursor (cursor : Option Nat) (a : Nat) : Bool := cursor.all (· < a)

theorem afterCursor_iff {cursor : Option Nat} {a : Nat} : afterCursor cursor a = true ↔ ∀ c, cursor = some c → c < a := by
  cases cursor <;> simp [afterCursor]

theorem nextCell_eq_find (m : Memory) (cursor : Option Nat) :
    nextCell m cursor = (memCells m).find? fun x => afterCursor cursor x.1 := by
  cases cursor with
  | none => cases h : memCells m <;> simp [nextCell, afterCursor, h]
  | some c => simp [nextCell, afterCursor]

/-- In a list that rises strictly, the first element that passes a test is the least one. -/
theorem fst_le_of_find?_eq_some {α : Type} {l : List (Nat × α)} {p : Nat × α → Bool} {x y : Nat × α}
    (hl : l.Pairwise fun x y => x.1 < y.1) (hx : l.find? p = some x) (hy : y ∈ l) (hp : p y = true) : x.1 ≤ y.1 := by
  induction l with
  | nil => cases hy
  | cons z l ih =>
    obtain ⟨hz, hl⟩ := List.pairwise_cons.mp hl
    by_cases hpz : p z = true
    · obtain rfl : z = x := by simpa [hpz] using hx
      obtain rfl | hy := List.mem_cons.mp hy
      · exact le_rfl
      · exact (hz y hy).le
    · obtain rfl | hy := List.mem_cons.mp hy
      · exact absurd hp hpz
      · exact ih hl ((List.find?_cons_of_neg hpz).symm.trans hx) hy

/-- The next word is a mapped one after the cursor, and no mapped address lies between (R59). -/
theorem nextCell_eq_some {m : Memory} (h : m.wf) {cursor : Option Nat} {a : Nat} {w : Word}
    (hn : nextCell m cursor = some (a, w)) :
    getWord m a = some w ∧ afterCursor cursor a = true ∧ ∀ b, b < a → afterCursor cursor b = true → getWord m b = none := by
  rw [nextCell_eq_find] at hn
  have hafter := List.find?_some (p := fun x : Nat × Word => afterCursor cursor x.1) hn
  refine ⟨(mem_memCells h).mp (List.mem_of_find?_eq_some hn), hafter, fun b hlt hb => ?_⟩
  refine Option.eq_none_iff_forall_ne_some.mpr fun v hv => ?_
  exact absurd hlt (Nat.not_lt.mpr (fst_le_of_find?_eq_some (memCells_sorted h) hn ((mem_memCells h).mpr hv) hb))

theorem nextCell_eq_none {m : Memory} (h : m.wf) {cursor : Option Nat} (hn : nextCell m cursor = none) {b : Nat}
    (hb : afterCursor cursor b = true) : getWord m b = none := by
  rw [nextCell_eq_find, List.find?_eq_none] at hn
  exact Option.eq_none_iff_forall_ne_some.mpr fun v hv => hn _ ((mem_memCells h).mpr hv) hb

theorem getNext_of_some {s : State} {a : Nat} {w : Word} (h : nextCell s.mem s.cursor = some (a, w)) :
    getNext s = .next (s.setCursor (some a), .word (some w)) := by
  simp [getNext, h]

theorem getNext_of_none {s : State} (h : nextCell s.mem s.cursor = none) : getNext s = .next (s, .word none) := by
  simp [getNext, h]

/-- Settles O27, by what the search after the cursor finds. -/
theorem iterationInAddressOrder : Obligations.IterationInAddressOrder := by
  intro s hr hm
  rw [hostStep_of_running hr, hostStep_of_running hr, hostOp, hostOp, if_pos rfl]
  refine ⟨rfl, ?_⟩
  cases hn : nextCell s.mem s.cursor with
  | none =>
    rw [getNext_of_none hn]
    refine ⟨fun _ _ => nofun, fun t ht => ?_, _, _, rfl⟩
    cases ht
    exact ⟨rfl, fun b hb => nextCell_eq_none hm hn (afterCursor_iff.mpr hb)⟩
  | some x =>
    obtain ⟨a, v⟩ := x
    rw [getNext_of_some hn]
    refine ⟨fun t w ht => ?_, fun _ => nofun, _, _, rfl⟩
    cases ht
    obtain ⟨hw, hafter, hleast⟩ := nextCell_eq_some hm hn
    exact ⟨a, rfl, hw, afterCursor_iff.mp hafter, fun b hlt hb => hleast b hlt (afterCursor_iff.mpr hb)⟩

end Sys2Proof.Machine
end

section
/-! PROOFS. Encoding and decoding settled: the fields of a word by their places (30_encoding.md R81), the instruction of an
assembled word, the well-formedness of what a word decodes to, and the refusal of a row whose gate is off (R86). -/

namespace Sys2Proof

/-! ## The fields by their places -/

theorem opOf_toNat (w : Word) : (opOf w).toNat = w.toNat / 2 ^ 27 := by
  rw [opOf, BitVec.extractLsb'_toNat, Nat.shiftRight_eq_div_pow]
  omega

theorem acOf_toNat (w : Word) : (acOf w).toNat = w.toNat / 2 ^ 23 % 2 ^ 4 := by
  rw [acOf, BitVec.extractLsb'_toNat, Nat.shiftRight_eq_div_pow]

theorem indOf_toNat (w : Word) : (indOf w).toNat = w.toNat / 2 ^ 22 % 2 := Nat.toNat_testBit w.toNat 22

theorem xOf_toNat (w : Word) : (xOf w).toNat = w.toNat / 2 ^ 18 % 2 ^ 4 := by
  rw [xOf, BitVec.extractLsb'_toNat, Nat.shiftRight_eq_div_pow]

theorem yOf_toNat (w : Word) : (yOf w).toNat = w.toNat % 2 ^ 18 := by
  rw [yOf, BitVec.extractLsb'_toNat, Nat.shiftRight_zero]

/-- Settles O3: the five places of R81 are adjacent and reach from bit 0 to bit 35, so the fields sum to the word. -/
theorem basicFormatFields : Obligations.BasicFormatFields := by
  intro w _
  rw [opOf_toNat, acOf_toNat, indOf_toNat, xOf_toNat, yOf_toNat]
  exact ⟨rfl, rfl, rfl, rfl, rfl, by omega⟩

/-! ## The instruction of a word -/

theorem decode_assembleIo (fn : BitVec 3) (f : IoFields) : decode (assembleIo fn f) = decodeIo fn f := by
  rw [decode, if_pos (classOf_assembleIo fn f), fnOf_assembleIo, ioOf_assembleIo]

/-- A word assembled in the basic format, with an opcode outside the IO class, is decoded by that opcode. -/
theorem decode_assemble {op : BitVec 9} (h : op.extractLsb' 6 3 ≠ 7) (f : Basic) :
    decode (assemble op f) = decodeBasic op.toNat f (assemble op f) := by
  rw [← classOf_assemble op f] at h
  rw [decode, if_neg h, opOf_assemble, basicOf_assemble]

theorem decode_assemble_jrst (f : Basic) : decode (assemble 0o254 f) = decodeJrst f := decode_assemble (by decide) f

theorem decodeJrst_of_ac_ne {f : Basic} (h : f.ac ≠ 0) : decodeJrst f = .jrstAc f := if_pos h

theorem decodeJrst_generic {ind : Bool} {x : AcNum} (h : ¬ (ind = false ∧ x = 0)) (y : Addr) :
    decodeJrst ⟨0, ind, x, y⟩ = .jrst ind x y := if_neg h

theorem wf_jrst_iff {ind : Bool} {x : AcNum} {y : Addr} :
    (Instr.jrst ind x y).wf = true ↔ ¬ (ind = false ∧ x = 0) := by
  cases ind <;> simp [Instr.wf]

theorem wf_jrstAc_iff {f : Basic} : (Instr.jrstAc f).wf = true ↔ f.ac ≠ 0 := bne_iff_ne

theorem wf_unlisted_iff {w : Word} :
    (Instr.unlisted w).wf = true ↔ classOf w ≠ 7 ∧ (opOf w).toNat ∉ namedOpcodes := by
  simp [Instr.wf, isUnlisted, classOf, opOf]

/-- Only the catch-all row takes a word outside the IO class whose opcode has no row (R250). -/
theorem decode_of_unlisted {w : Word} (h : (Instr.unlisted w).wf = true) : decode w = .unlisted w := by
  obtain ⟨hc, hn⟩ := wf_unlisted_iff.mp h
  rw [decode, if_neg hc, Machine.decodeBasic_of_not_mem hn]

/-- Settles O1: a row of the IO format is found by its function and one of the basic format by its opcode; well-formedness
is what the rows that share an opcode need, the three of JRST and the catch-all. -/
theorem decodeInvertsEncode : Obligations.DecodeInvertsEncode := by
  intro i h
  cases i
  case jrstFast y => exact decode_assemble_jrst _
  case jrst ind x y => exact (decode_assemble_jrst _).trans (decodeJrst_generic (wf_jrst_iff.mp h) y)
  case jrstAc f => exact (decode_assemble_jrst f).trans (decodeJrst_of_ac_ne (wf_jrstAc_iff.mp h))
  case unlisted w => exact decode_of_unlisted h
  case blki f | datai f | blko f | datao f | cono f | coni f | consz f | conso f => exact decode_assembleIo _ f
  all_goals next f => exact decode_assemble (by decide) f

/-! ## What a word decodes to -/

theorem decodeIo_wf (fn : BitVec 3) (f : IoFields) : (decodeIo fn f).wf = true := by
  unfold decodeIo
  split <;> rfl

theorem decodeJrst_wf (f : Basic) : (decodeJrst f).wf = true := by
  unfold decodeJrst
  split
  next h => exact wf_jrstAc_iff.mpr h
  · split
    · rfl
    next h => exact wf_jrst_iff.mpr h

theorem decodeBasic_wf_of_mem {op : Nat} (h : op ∈ namedOpcodes) (f : Basic) (w : Word) :
    (decodeBasic op f w).wf = true := by
  obtain rfl | hj := eq_or_ne op 0o254
  · exact decodeJrst_wf f
  · replace h : op ∈ namedOpcodes.erase 0o254 := (List.mem_erase_of_ne hj).mpr h
    fin_cases h <;> rfl

theorem decode_wf (w : Word) : (decode w).wf = true := by
  unfold decode
  split
  · exact decodeIo_wf _ _
  next hc =>
    by_cases hn : (opOf w).toNat ∈ namedOpcodes
    · exact decodeBasic_wf_of_mem hn _ _
    · rw [Machine.decodeBasic_of_not_mem hn]
      exact wf_unlisted_iff.mpr ⟨hc, hn⟩

/-- Settles O2: every row keeps all fields of the word, and the catch-all row the word itself. -/
theorem encodeInvertsDecode : Obligations.EncodeInvertsDecode := fun w => ⟨decode_wf w, encode_decode w⟩

theorem decode_eq_of_encode_eq {w : Word} {i : Instr} (hwf : i.wf = true) (h : encode i = w) : decode w = i :=
  h ▸ decodeInvertsEncode i hwf

/-- Settles O4: each word is the encoding of the well-formed instruction that it stands for. -/
theorem sampleWordsDecode : Obligations.SampleWordsDecode := by
  unfold Obligations.SampleWordsDecode
  refine ⟨?_, ?_, ?_, ?_, ?_, ?_, ?_, ?_, ?_, ?_, ?_, ?_⟩ <;> exact decode_eq_of_encode_eq (by decide) (by decide)

end Sys2Proof

namespace Sys2Proof.Machine

open Claims

/-! ## Gates -/

/-- With its gate off an instruction is refused, whatever its uops (40_decode_dispatch.md R111, R124). -/
theorem exec_of_gate_off {i : Instr} {g : Gate} {rd : Rd} {op : Op} {cond : BitVec 3} {wb : Wb} {s : State}
    (hs : shapeOf i = .uops g rd op cond wb) (hg : g.admits s.config = false) :
    exec i s = execRefuse (encode i) .notAdmitted s := by
  rw [exec_eq_shape, hs, Shape.run, gated, hg]
  rfl

theorem shapeOf_modeVariant {f : Basic} {i : Instr} (h : modeVariant f i) :
    ∃ rd op cond wb, shapeOf i = .uops .modeVariants rd op cond wb := by
  revert i
  simp [modeVariant, shapeOf]

/-- The JUMP and SKIP conditions other than L have the gate of the compare class (30_encoding.md R86). -/
theorem shapeOf_cmpClass {c : BitVec 3} {f : Basic} {i : Instr} (hc : c ≠ 1) (h : i = jumpOf c f ∨ i = skipOf c f) :
    ∃ rd op cond wb, shapeOf i = .uops .cmpClass rd op cond wb := by
  have hL : c.toNat ≠ 1 := fun h1 => hc (BitVec.eq_of_toNat_eq h1)
  obtain rfl | rfl := h
  case' inl => unfold jumpOf
  case' inr => unfold skipOf
  all_goals
    split
    case h_2 h1 => exact absurd h1 hL
    all_goals exact ⟨_, _, _, _, rfl⟩

/-- Settles O46: the gate is tested before any uop, so all that is left is which instructions have which gate. -/
theorem gatedInstructionsRefused : Obligations.GatedInstructionsRefused := by
  refine fun f i s => ⟨fun hg hi => ?_, fun c hg hc hi => ?_⟩
  · obtain ⟨rd, op, cond, wb, hs⟩ := shapeOf_modeVariant hi
    exact exec_of_gate_off hs hg
  · obtain ⟨rd, op, cond, wb, hs⟩ := shapeOf_cmpClass hc hi
    exact exec_of_gate_off hs hg

end Sys2Proof.Machine
end

section
/-! PROOFS. What `DEC` selects for a word (40_decode_dispatch.md R111, R113), and the codes of selections and slots (R116,
R117). -/

namespace Sys2Proof.Machine

/-! ## The fast path -/

theorem assemble_eq_iff {op : BitVec 9} {f : Basic} {w : Word} : assemble op f = w ↔ opOf w = op ∧ basicOf w = f := by
  constructor
  · rintro rfl
    exact ⟨opOf_assemble op f, basicOf_assemble op f⟩
  · rintro ⟨rfl, rfl⟩
    exact assemble_fields w

theorem decode_eq_iff {w : Word} {i : Instr} (hi : i.wf = true) : decode w = i ↔ encode i = w :=
  ⟨fun h => h ▸ encode_decode w, decode_eq_of_encode_eq hi⟩

theorem shapeOf_eq_fast_iff {i : Instr} {y : Addr} : shapeOf i = .fast y ↔ i = .jrstFast y := by
  cases i <;> simp [shapeOf]

theorem Shape.sel_eq_fastJump_iff {sh : Shape} {c : Config} {w : Word} {y : Addr} :
    sh.sel c w = .fastJump w y ↔ sh = .fast y := by
  cases sh with
  | uops g => cases h : g.admits c <;> simp [Shape.sel, h]
  | fast | refused => simp [Shape.sel]

/-- Settles O5: only the fast row of JRST has the shape of a fast jump, and its words are those with the fields of R113; a JRST
word with AC 0 that is not one of them is of the generic row. -/
theorem fastPathExactly : Obligations.FastPathExactly := by
  refine fun c w => ⟨fun t => ?_, fun hop hac hgen => ?_⟩
  · rw [dec_eq_sel_shapeOf, Shape.sel_eq_fastJump_iff, shapeOf_eq_fast_iff, decode_eq_iff rfl, encode, assemble_eq_iff,
      eq_comm (a := t)]
    simp [basicOf, and_assoc]
  · have hw : encode (.jrst (indOf w) (xOf w) (yOf w)) = w := assemble_eq_iff.mpr ⟨hop, by rw [basicOf, hac]⟩
    have hwf : (Instr.jrst (indOf w) (xOf w) (yOf w)).wf = true :=
      wf_jrst_iff.mpr fun ⟨hi, hx⟩ => hgen.elim (by simp [hi]) (· hx)
    rw [dec_eq_sel_shapeOf, (decode_eq_iff hwf).mpr hw]
    rfl

/-- Settles O6: both are the shape of the word's instruction. -/
theorem instructionRunsItsSelection : Obligations.InstructionRunsItsSelection := exec_decode

/-! ## Codes -/

@[simp] theorem Rd.ofCode_code (rd : Rd) : Rd.ofCode rd.code = some rd := by cases rd <;> rfl
@[simp] theorem Op.ofCode_code (op : Op) : Op.ofCode op.code = op := by cases op <;> rfl
@[simp] theorem Wb.ofCode_code (wb : Wb) : Wb.ofCode wb.code = some wb := by cases wb <;> rfl
@[simp] theorem Reason.ofCode_code (r : Reason) : Reason.ofCode r.code = some r := by cases r <;> rfl

theorem Rd.ofCode_eq_none_iff (c : BitVec 3) : Rd.ofCode c = Option.none ↔ 6 ≤ c.toNat := by decide +revert
theorem Wb.ofCode_eq_none_iff (c : BitVec 3) : Wb.ofCode c = Option.none ↔ 6 ≤ c.toNat := by decide +revert
theorem Reason.ofCode_eq_none_iff (c : BitVec 3) : Reason.ofCode c = none ↔ 6 ≤ c.toNat := by decide +revert

/-- A selection is found again from its vector; the 0 of an unused field is a code that is produced. -/
theorem Sel.ofCodes_codes (sel : Sel) : Sel.ofCodes sel.codes = some sel := by
  cases sel with
  | generic w rd op cond wb => simp only [Sel.codes, Sel.ofCodes, Rd.ofCode_code, Op.ofCode_code, Wb.ofCode_code]; rfl
  | fastJump w t => rfl
  | refuse w r => simp only [Sel.codes, Sel.ofCodes, Reason.ofCode_code]; rfl

theorem Slot.ofCodes_codes (slot : Slot) : Slot.ofCodes slot.tag slot.codes = some slot := by
  cases slot with
  | decoded sel => exact congrArg (Option.map Slot.decoded) sel.ofCodes_codes
  | stub | unmapped => rfl

/-- A vector is no selection exactly where one of the four checked fields has a code that is never produced (R116). -/
theorem Sel.ofCodes_eq_none_iff (v : SelCodes) :
    Sel.ofCodes v = none ↔ v.kind = 3 ∨ 6 ≤ v.rd.toNat ∨ 6 ≤ v.wb.toNat ∨ 6 ≤ v.reason.toNat := by
  rw [← Rd.ofCode_eq_none_iff, ← Wb.ofCode_eq_none_iff, ← Reason.ofCode_eq_none_iff, Sel.ofCodes]
  generalize v.kind = kind
  cases Rd.ofCode v.rd with
  | none => simp
  | some rd =>
    cases Wb.ofCode v.wb with
    | none => simp
    | some wb =>
      cases Reason.ofCode v.reason with
      | none => simp
      | some r =>
        obtain ⟨n, hn⟩ := kind
        interval_cases n <;> simp

theorem Slot.ofCodes_eq_none_iff (tag : BitVec 2) (v : SelCodes) :
    Slot.ofCodes tag v = none ↔ tag = 3 ∨ (tag = 1 ∧ Sel.ofCodes v = none) := by
  obtain ⟨n, hn⟩ := tag
  interval_cases n <;> simp [Slot.ofCodes]

theorem writeSlotCodes_of_some {a : Addr} {tag : BitVec 2} {v : SelCodes} {slot : Slot} (s : State)
    (h : Slot.ofCodes tag v = some slot) : writeSlotCodes a tag v s = .next (s.setSlot a slot) := by
  simp [writeSlotCodes, h]

theorem writeSlotCodes_eq_refuse_iff {a : Addr} {tag : BitVec 2} {v : SelCodes} {s : State} :
    writeSlotCodes a tag v s = refuse .badCode s ↔ Slot.ofCodes tag v = none := by
  unfold writeSlotCodes
  cases Slot.ofCodes tag v with
  | none => simp
  | some slot => simp [refuse]

/-- The single-entry write port writes its slot and no other (R118). -/
theorem setSlot_frame (s : State) (a : Addr) (v : Slot) :
    s.setSlot a v = { s with slots := (s.setSlot a v).slots } ∧ (s.setSlot a v).slotAt a = v ∧
      ∀ b, b ≠ a → (s.setSlot a v).slotAt b = s.slotAt b :=
  ⟨rfl, (slotAt_setSlot s a a v).trans (if_pos rfl), fun b hb => (slotAt_setSlot s a b v).trans (if_neg hb)⟩

/-- Settles O7: the numbers are those of the definitions; the port asks for the slot of the codes, field by field. -/
theorem slotCodes : Obligations.SlotCodes := by
  refine ⟨Slot.ofCodes_codes, ?_, ⟨fun _ _ => rfl, fun _ => rfl, rfl, fun _ => rfl⟩, ?_, fun a tag v s => ?_⟩
  · exact ⟨rfl, rfl, rfl, rfl, fun _ => ⟨rfl, rfl⟩, fun _ _ _ _ _ => rfl, fun _ _ => rfl, fun _ _ => rfl⟩
  · exact fun a tag v slot s h => ⟨_, writeSlotCodes_of_some s h, setSlot_frame s a slot⟩
  · rw [writeSlotCodes_eq_refuse_iff, Slot.ofCodes_eq_none_iff, Sel.ofCodes_eq_none_iff]

end Sys2Proof.Machine
end

section
/-! PROOFS. Effective-address calculation (40_decode_dispatch.md R127 to R129): its levels one by one, the chain of indirect
levels as the orbit of a map on addresses, and the generic step on each of its results. -/

namespace Sys2Proof.Machine

open Claims

/-! ## One level -/

theorem indexed_of_x_zero (s : State) {w : Word} (hx : xOf w = 0) : indexed s w = .ok (yOf w) := if_pos hx

theorem indexed_of_some {s : State} {w : Word} {v : Word} (hx : xOf w ≠ 0) (hv : s.fmAt (xOf w) = some v) :
    indexed s w = .ok (BitVec.ofNat 18 ((yOf w).toNat + v.toNat)) := by
  have hsum : yOf w + v.setWidth 18 = BitVec.ofNat 18 ((yOf w).toNat + v.toNat) := by
    apply BitVec.eq_of_toNat_eq
    simp
  rw [indexed, if_neg hx, readFm_of_some hv, ← hsum]

theorem indexed_of_none {s : State} {w : Word} (hx : xOf w ≠ 0) (hv : s.fmAt (xOf w) = none) :
    indexed s w = .error (.undefinedRegister (xOf w)) := by
  rw [indexed, if_neg hx, readFm_of_none hv]

section Level

variable {s : State} {w : Word} {e : Addr} {k : FaultKind}

theorem calcEA_of_indexed_error (h : indexed s w = .error k) (n : Nat) (mb : Word) :
    calcEA (n + 1) s w mb = .fault k mb := by
  simp [calcEA_succ, h]

theorem calcEA_of_direct (h : indexed s w = .ok e) (hi : indOf w = false) (n : Nat) (mb : Word) :
    calcEA (n + 1) s w mb = .done e mb := by
  simp [calcEA_succ, h, hi]

theorem calcEA_of_read_error (h : indexed s w = .ok e) (hi : indOf w = true) (hr : memRead s e = .error k) (n : Nat)
    (mb : Word) : calcEA (n + 1) s w mb = .fault k mb := by
  simp [calcEA_succ, h, hi, hr]

theorem calcEA_of_indirect {v : Word} (h : indexed s w = .ok e) (hi : indOf w = true) (hr : memRead s e = .ok v) (n : Nat)
    (mb : Word) : calcEA (n + 1) s w mb = calcEA n s v v := by
  simp [calcEA_succ, h, hi, hr]

end Level

/-- Settles O12, by what the address of the level and the indirect bit are. -/
theorem effectiveAddressLevel : Obligations.EffectiveAddressLevel := by
  refine fun s w => ⟨fun hx hi => ?_, fun v hx hv hi => ?_, fun hx hv => ?_, fun k hx hi hr => ?_, fun v k hx hv hi hr => ?_⟩
  · exact calcEA_of_direct (indexed_of_x_zero s hx) hi _ _
  · exact calcEA_of_direct (indexed_of_some hx hv) hi _ _
  · exact calcEA_of_indexed_error (indexed_of_none hx hv) _ _
  · exact calcEA_of_read_error (indexed_of_x_zero s hx) hi hr _ _
  · exact calcEA_of_read_error (indexed_of_some hx hv) hi hr _ _

/-! ## The bound on the levels -/

/-- An orbit that reaches a fixed point reaches it within as many steps as there are other points. -/
theorem iterate_ne_fixed {α : Type} [Fintype α] {f : α → α} {x z : α} (hz : f z = z) {n : Nat}
    (hn : Fintype.card α ≤ n + 1) (h : f^[n] x ≠ z) (m : Nat) : f^[m] x ≠ z := by
  classical
  intro hm
  have hex : ∃ m, f^[m] x = z := ⟨m, hm⟩
  have hstay {j : Nat} (hj : Nat.find hex ≤ j) : f^[j] x = z := by
    obtain ⟨d, rfl⟩ := Nat.exists_eq_add_of_le' hj
    rw [Function.iterate_add_apply, Nat.find_spec hex, Function.iterate_fixed hz]
  have hlt : n < Nat.find hex := Nat.lt_of_not_le fun hle => h (hstay hle)
  have hinj : Function.Injective fun i : Fin (Nat.find hex + 1) => f^[i] x := by
    refine Function.Injective.of_lt_imp_ne fun i j (hij : i.val < j.val) heq => ?_
    refine Nat.find_min hex (m := Nat.find hex - j + i) (by omega) ?_
    rw [Function.iterate_add_apply, heq, ← Function.iterate_add_apply]
    exact hstay (by omega)
  have hcard := Fintype.card_le_of_injective _ hinj
  rw [Fintype.card_fin] at hcard
  omega

/-- The address from which a level fetches, where it is an indirect one that does not fault. -/
def fetchedFrom (s : State) (w : Word) : Option Addr :=
  match indexed s w with
  | .error _ => none
  | .ok e => if indOf w ∧ (memRead s e).isOk then some e else none

/-- From the address of one fetch of the chain to that of the next; `none` where the chain has ended. -/
def nextFetch (s : State) (o : Option Addr) : Option Addr := o.bind fun e => (memRead s e).toOption.bind (fetchedFrom s)

theorem fetchedFrom_cases (s : State) (w : Word) :
    (fetchedFrom s w = none ∧ ∀ n mb, calcEA (n + 1) s w mb ≠ .hang) ∨
    ∃ e v, fetchedFrom s w = some e ∧ indexed s w = .ok e ∧ indOf w = true ∧ memRead s e = .ok v := by
  unfold fetchedFrom
  cases he : indexed s w with
  | error k => exact .inl ⟨rfl, fun n mb => by simp [calcEA_of_indexed_error he]⟩
  | ok e =>
    cases hi : indOf w with
    | false => exact .inl ⟨by simp, fun n mb => by simp [calcEA_of_direct he hi]⟩
    | true =>
      cases hr : memRead s e with
      | error k => exact .inl ⟨by simp [hr, Except.isOk, Except.toBool], fun n mb => by simp [calcEA_of_read_error he hi hr]⟩
      | ok v => exact .inr ⟨e, v, by simp [hr, Except.isOk, Except.toBool], rfl, rfl, hr⟩

/-- A chain has not ended in `n + 1` levels where the orbit of its first fetch has not in `n` steps. -/
theorem calcEA_eq_hang_iff (s : State) (n : Nat) (w mb : Word) :
    calcEA (n + 1) s w mb = .hang ↔ (nextFetch s)^[n] (fetchedFrom s w) ≠ none := by
  induction n generalizing w mb with
  | zero =>
    obtain ⟨hnone, hends⟩ | ⟨e, v, hsome, he, hi, hr⟩ := fetchedFrom_cases s w
    · simp [hends, hnone]
    · rw [calcEA_of_indirect he hi hr, hsome]
      simp [calcEA]
  | succ n ih =>
    rw [Function.iterate_succ_apply]
    obtain ⟨hnone, hends⟩ | ⟨e, v, hsome, he, hi, hr⟩ := fetchedFrom_cases s w
    · have hstop : nextFetch s none = none := rfl
      simp [hends, hnone, hstop, Function.iterate_fixed hstop]
    · have hnext : nextFetch s (some e) = fetchedFrom s v := by simp [nextFetch, hr, Except.toOption]
      rw [calcEA_of_indirect he hi hr, hsome, hnext, ih]

theorem card_option_addr : Fintype.card (Option Addr) = 2 ^ 18 + 1 := by
  rw [Fintype.card_option, ← FinEnum.card_eq_fintypeCard, FinEnum.card_bitVec]

/-- A chain that has not ended within 2^18 + 1 levels ends at no number of levels (R128). -/
theorem calcEA_hang_of_eaOf {s : State} {w : Word} (h : eaOf s w = .hang) (n : Nat) (mb : Word) :
    calcEA n s w mb = .hang := by
  cases n with
  | zero => rfl
  | succ n =>
    refine (calcEA_eq_hang_iff s n w mb).mpr ?_
    exact iterate_ne_fixed rfl card_option_addr.le ((calcEA_eq_hang_iff s (2 ^ 18) w s.mb).mp h) n

/-- A chain that has ended comes to the same at one more level. -/
theorem calcEA_succ_of_ne_hang {s : State} {n : Nat} {w mb : Word} (h : calcEA n s w mb ≠ .hang) :
    calcEA (n + 1) s w mb = calcEA n s w mb := by
  induction n generalizing w mb with
  | zero => exact absurd rfl h
  | succ n ih =>
    rw [calcEA_succ n] at h ⊢
    rw [calcEA_succ (n + 1)]
    cases he : indexed s w with
    | error k => rfl
    | ok e =>
      simp only [he] at h ⊢
      split at h
      next hi =>
        rw [if_pos hi, if_pos hi]
        cases hr : memRead s e with
        | error k => rfl
        | ok v => exact ih (by simpa only [hr] using h)
      next hi => rw [if_neg hi, if_neg hi]

/-- EA calculation does not read the register MB; what MB holds at its start is an argument of its own. -/
theorem calcEA_setMb (n : Nat) (s : State) (w mb x : Word) : calcEA n (s.setMb x) w mb = calcEA n s w mb := by
  induction n generalizing w mb with
  | zero => rfl
  | succ n ih =>
    simp only [calcEA_succ, ih]
    rfl

/-- Settles O13: the level that is spent on the first fetch is not missed, for a chain that needs it never ends. -/
theorem indirectChainUnfolds : Obligations.IndirectChainUnfolds := by
  refine ⟨fun s w e v he hi hr => ?_, fun s w h n => calcEA_hang_of_eaOf h n _⟩
  have hleft : eaOf s w = calcEA (2 ^ 18) s v v := calcEA_of_indirect he hi hr _ _
  have hright : eaOf { s with mb := v } v = calcEA (2 ^ 18 + 1) s v v := calcEA_setMb _ s v v v
  rw [hleft, hright]
  by_cases h : calcEA (2 ^ 18) s v v = .hang
  · rw [h, ← calcEA_of_indirect he hi hr _ s.mb, calcEA_hang_of_eaOf (hleft.trans h)]
  · exact (calcEA_succ_of_ne_hang h).symm

/-! ## The generic step on a result -/

theorem execGeneric_of_hang {s : State} {w : Word} (rd : Rd) (op : Op) (cond : BitVec 3) (wb : Wb) (h : eaOf s w = .hang) :
    execGeneric w rd op cond wb s = .next s := by
  simp [execGeneric, h]

theorem execGeneric_of_ea_fault {s : State} {w : Word} {k : FaultKind} {mb : Word} (rd : Rd) (op : Op) (cond : BitVec 3)
    (wb : Wb) (h : eaOf s w = .fault k mb) : execGeneric w rd op cond wb s = raise k ((s.latch w).setMb mb) := by
  simp [execGeneric, h]

/-- An instruction of which `DEC` makes a generic selection runs as that selection. -/
theorem exec_of_runsGeneric {i : Instr} {s : State} (hwf : i.wf = true) (h : runsGeneric s.config i) :
    ∃ rd op cond wb, exec i s = execGeneric (encode i) rd op cond wb s := by
  obtain ⟨w, rd, op, cond, wb, hd⟩ := h
  obtain rfl : encode i = w := (dec_word s.config (encode i)).symm.trans (congrArg Sel.word hd)
  have hrun := exec_decode (encode i) s
  rw [decodeInvertsEncode i hwf, hd] at hrun
  exact ⟨rd, op, cond, wb, hrun⟩

/-- Settles O14: whatever the uops, EA calculation comes before them. -/
theorem effectiveAddressHangsAndFaults : Obligations.EffectiveAddressHangsAndFaults := by
  intro i s hwf hg
  obtain ⟨rd, op, cond, wb, hrun⟩ := exec_of_runsGeneric hwf hg
  rw [hrun]
  exact ⟨fun h => execGeneric_of_hang rd op cond wb h, fun k mb h => execGeneric_of_ea_fault rd op cond wb h⟩

/-! ## JRST -/

/-- The generic path of JRST ends at E and writes no register but those of the entry (R201). -/
theorem execGeneric_jrst_of_done {s : State} {w : Word} {e : Addr} {mb : Word} (h : eaOf s w = .done e mb) :
    execGeneric w .none .jrst 0 .none s = .next (((s.latch w).setEa e mb).setPc e) :=
  execGeneric_of_done (by decide) h rfl

/-- Settles O38: the fast path as R123 has it, the generic one with AC 0 in its word. -/
theorem jrstJumps : Obligations.JrstJumps := by
  refine ⟨fun y s => ⟨Laws.RowMatch.jrstFast y rfl, rfl⟩, fun ind x y s e mb => ?_⟩
  have hac : acOf (encode (.jrst ind x y)) = 0 := acOf_assemble _ _
  refine ⟨opOf_assemble _ _, hac, fun h => ?_⟩
  rw [entered, ← hac]
  exact execGeneric_jrst_of_done h

/-- Settles O39: with I and X zero the generic path ends at Y too, and MB is not written. -/
theorem fastPathEquivalence : Obligations.FastPathEquivalence := by
  intro w s _ _ hi hx
  have he : eaOf s w = .done (yOf w) s.mb := calcEA_of_direct (indexed_of_x_zero s hx) hi _ _
  exact ⟨_, _, rfl, execGeneric_jrst_of_done he, ⟨rfl, rfl, fun _ => rfl, rfl⟩, rfl⟩

end Sys2Proof.Machine
end

section
/-! PROOFS. The step by the slot at PC (40_decode_dispatch.md R120 to R122), the maintenance of the dispatch table slot by slot
(R130 to R134), and what the host operations refuse (R134, R135, 20_memory.md R59, R74). -/

namespace Sys2Proof.Machine

open Claims

/-! ## The slot at PC -/

theorem step_of_unmapped {s : State} (h : live s) (hs : s.slotAt s.pc = .unmapped) :
    step s = raise (.unmapped s.pc .fetch) s := by
  obtain ⟨hr, hl⟩ := h
  simp [step, hr, hl, hs, enterUnmapped]

theorem decodeStep_of_none {s : State} (h : s.memGet s.pc = none) : decodeStep s = raise (.unmapped s.pc .fetch) s := by
  simp [decodeStep, h]

/-- Settles O9: a DECODED slot runs its selection, and the selection's kind names the execute step. -/
theorem stepFollowsTheSlot : Obligations.StepFollowsTheSlot := fun _ h =>
  ⟨step_of_stub h, step_of_unmapped h, fun _ _ => step_of_decoded h, fun _ _ => step_of_decoded h,
    fun _ _ _ _ _ => step_of_decoded h⟩

theorem step_of_dec {s : State} {w : Word} (h : live s) (hs : s.slotAt s.pc = .decoded (dec s.config w)) :
    step s = exec (decode w) s := by
  rw [step_of_decoded h hs, exec_decode]

/-- Settles O8: after the decode step the machine stands at the slot that the step has written. -/
theorem stepRunsTheDecodedInstruction : Obligations.StepRunsTheDecodedInstruction := by
  refine fun s w h => ⟨step_of_dec h, fun hs hm => ?_⟩
  obtain ⟨-, hslot, -⟩ := setSlot_frame s s.pc (.decoded (dec s.config w))
  exact ⟨_, (step_of_stub h hs).trans (decodeStep_of_some hm), rfl, step_of_dec h hslot⟩

/-- Settles O10, by whether the word of a STUB is mapped. -/
theorem stubDecodesAndUnmappedFaults : Obligations.StubDecodesAndUnmappedFaults := by
  refine fun s h => ⟨fun hs => ⟨fun w hm => ?_, fun hm => ?_⟩, step_of_unmapped h⟩
  · exact ⟨_, (step_of_stub h hs).trans (decodeStep_of_some hm), setSlot_frame s s.pc _⟩
  · exact (step_of_stub h hs).trans (decodeStep_of_none hm)

/-! ## The maintenance of the dispatch table -/

theorem mem_pageAddrs_iff (a b : Nat) : b ∈ pageAddrs a ↔ b / 1024 = a / 1024 := by
  rw [mem_pageAddrs, pageBase, pageWords]
  omega

/-- A page fill gives the slots of the page their new values and changes nothing else (R131 to R134). -/
theorem fill_frame (s : State) (a : Nat) (f : Nat → Slot) :
    s.setSlots (slotFill s.slots a f) = { s with slots := (s.setSlots (slotFill s.slots a f)).slots } ∧
    ∀ b : Addr,
      (b.toNat / 1024 = a / 1024 → (s.setSlots (slotFill s.slots a f)).slotAt b = f b.toNat) ∧
      (b.toNat / 1024 ≠ a / 1024 → (s.setSlots (slotFill s.slots a f)).slotAt b = s.slotAt b) := by
  refine ⟨rfl, fun b => ⟨fun hb => ?_, fun hb => ?_⟩⟩
  · exact (slotGet_fill s.slots a f b.toNat).trans (if_pos ((mem_pageAddrs_iff a b.toNat).mpr hb))
  · exact (slotGet_fill s.slots a f b.toNat).trans (if_neg ((mem_pageAddrs_iff a b.toNat).not.mpr hb))

theorem pureSlot_of_some {s : State} {a : Nat} {w : Word} (h : getWord s.mem a = some w) :
    pureSlot s a = .decoded (dec s.config w) := by
  simp [pureSlot, h]

theorem pureSlot_of_none {s : State} {a : Nat} (h : getWord s.mem a = none) : pureSlot s a = .stub := by
  simp [pureSlot, h]

/-- In a running machine the four operations of the table are done at any address (R130 to R133). -/
theorem hostStep_slotMaintenance {s : State} (hr : s.status = .running) (a : Addr) :
    hostStep (.invalidateWord a.toNat) s = .next (invalidateWord a s, .done) ∧
    hostStep (.purePage a.toNat) s = .next (purePage a.toNat s, .done) ∧
    hostStep (.unpurePage a.toNat) s = .next (unpurePage a.toNat s, .done) ∧
    hostStep (.unmappedPage a.toNat) s = .next (unmappedPage a.toNat s, .done) := by
  have haddr (k : Addr → HostResult) : withAddr a.toNat s k = k a := by
    rw [withAddr_of_lt a.isLt, BitVec.ofNat_toNat, BitVec.setWidth_eq]
  simp only [hostStep_of_running hr, hostOp, haddr, and_self]

/-- Settles O23: one write by the single-entry port, and three fills of the page. -/
theorem slotMaintenance : Obligations.SlotMaintenance := by
  intro a s hr
  obtain ⟨hinv, hpure, hunpure, hunmapped⟩ := hostStep_slotMaintenance hr a
  refine ⟨⟨_, hinv, setSlot_frame s a .stub⟩, ⟨_, hpure, rfl, fun b => ?_⟩, ⟨_, hunpure, fill_frame s a.toNat _⟩,
    ⟨_, hunmapped, fill_frame s a.toNat _⟩⟩
  obtain ⟨hin, hout⟩ := (fill_frame s a.toNat (pureSlot s)).2 b
  exact ⟨fun hb => ⟨fun w hw => (hin hb).trans (pureSlot_of_some hw), fun hn => (hin hb).trans (pureSlot_of_none hn)⟩, hout⟩

/-! ## The arguments of host operations -/

theorem withAddr_of_ge {a : Nat} (h : 2 ^ 18 ≤ a) (s : State) (k : Addr → HostResult) :
    withAddr a s k = refuse .badAddress s := if_neg (Nat.not_lt.mpr h)

theorem withWord_of_ge {w : Nat} (h : 2 ^ 36 ≤ w) (s : State) (k : Word → HostResult) :
    withWord w s k = refuse .badWord s := if_neg (Nat.not_lt.mpr h)

theorem addMemory_of_bad_address {a : Nat} (h : 2 ^ 18 ≤ a) (data : List Nat) (s : State) :
    addMemory a data s = refuse .badAddress s := if_pos h

theorem addMemory_of_bad_word {a : Nat} {data : List Nat} (ha : a < 2 ^ 18) (hd : ∃ x ∈ data, 2 ^ 36 ≤ x) (s : State) :
    addMemory a data s = refuse .badWord s := by
  have haddr : ¬ addressCount ≤ a := Nat.not_le.mpr ha
  have hbad : data.any (2 ^ 36 ≤ ·) = true := by simpa using hd
  rw [addMemory, if_neg haddr, if_pos hbad]

/-- Settles O24: each operation checks its address, then its words, before anything else. -/
theorem hostArgumentsChecked : Obligations.HostArgumentsChecked := by
  intro a w s hr
  simp only [hostStep_of_running hr]
  refine ⟨fun ha => ?_, fun ha hw => ?_, fun data ha => ?_, fun data ha hd => ?_, fun z hz => if_neg hz⟩
  · simp [hostOp, withAddr_of_ge ha, addMemory_of_bad_address ha]
  · have hadd : addMemory a [w] s = refuse .badWord s := addMemory_of_bad_word ha ⟨w, List.mem_singleton_self w, hw⟩ s
    simp [hostOp, withAddr_of_lt ha, withWord_of_ge hw, hadd]
  · exact addMemory_of_bad_address ha data s
  · exact addMemory_of_bad_word ha hd s

/-- Settles O25: the start address is cut to its low 18 bits. -/
theorem runSetsPcAndMemory : Obligations.RunSetsPcAndMemory := by
  intro start m s hr
  rw [hostStep_of_running hr, hostOp, hostRun]
  refine ⟨fun hs hm => ?_, fun hs => if_pos hs⟩
  have hpc : BitVec.ofNat 18 start = BitVec.ofNat 18 (start % 2 ^ 18) := BitVec.eq_of_toNat_eq (by simp)
  rw [if_neg (by simp [hs]), if_neg (not_not.mpr hm), hpc]

end Sys2Proof.Machine
end

section
/-! PROOFS. An instruction that ends at `PC + 1`, from its effective address to its end, in the words of the claims
(40_decode_dispatch.md R125, R136 to R138): what its reads give, and what its write-back leaves. -/

namespace Sys2Proof.Machine

open Claims

/-! ## Writes by the block -/

/-- A write that reaches an accumulator or a mapped word cannot fail (20_memory.md R61). -/
theorem memWrite_of_reached {e : Addr} {s : State} (v : Word) (h : aliasesFm s e = true ∨ ∃ u, s.memGet e = some u) :
    memWrite e v s = .next (afterWrite e v s) := by
  cases ha : aliasesFm s e with
  | true => rw [memWrite_of_aliases v ha, afterWrite, if_pos ha]; rfl
  | false =>
    obtain ⟨u, hu⟩ := h.resolve_left (by simp [ha])
    rw [memWrite_of_mapped v ha hu, afterWrite, if_neg (by simp [ha])]

/-- A write to an unmapped word makes a one-word area, or fails by the draw, before PC moves on (20_memory.md R56, R73). -/
theorem memWrite_of_unmapped {e : Addr} {s : State} (v : Word) (ha : aliasesFm s e = false) (hm : s.memGet e = none) :
    (andThen (memWrite e v s) fun t => .next (onward t)) = newAreaOutcome e v s := by
  rw [memWrite, if_neg (by simp [ha]), newAreaOutcome]
  cases hd : (drawAlloc s).1 with
  | true => rw [setWordAt_of_no_room v hm hd, drawAlloc_snd]; rfl
  | false => rw [setWordAt_of_unmapped v hm hd, drawAlloc_snd]; rfl

theorem afterWrite_ac (e : Addr) (v : Word) (s : State) : (afterWrite e v s).ac = s.ac := by
  unfold afterWrite
  split <;> rfl

theorem afterWrite_ar (e : Addr) (v : Word) (s : State) : (afterWrite e v s).ar = s.ar := by
  unfold afterWrite
  split <;> rfl

/-! ## The end of the step -/

/-- The operate uops after which the PC moves on by one, whatever the operands (R150). -/
def Op.sequential : Op → Bool
  | .pass | .neg | .add | .sub => true
  | .jump | .skip | .jrst | .muuo => false

theorem nextPc_of_sequential {op : Op} (h : op.sequential = true) (cond : BitVec 3) (e : Addr) (s : State) :
    nextPc op cond e s = s.pc + 1 := by
  cases op with
  | pass | neg | add | sub => rfl
  | jump | skip | jrst | muuo => cases h

theorem ne_muuo_of_sequential {op : Op} (h : op.sequential = true) : op ≠ .muuo := by
  rintro rfl
  cases h

theorem setPc_succ_eq_onward (s : State) : s.setPc (s.pc + 1) = onward s := by
  have hpc : s.pc + 1 = BitVec.ofNat 18 (s.pc.toNat + 1) := BitVec.eq_of_toNat_eq (by simp)
  rw [hpc]
  rfl

/-- No write-back writes PC, so the step ends one past the PC that it leaves. -/
theorem writeBack_then_setPc (wb : Wb) (e : Addr) (s : State) :
    (andThen (writeBack wb e s) fun t => Host.Outcome.next (t.setPc (s.pc + 1))) =
      andThen (writeBack wb e s) fun t => .next (onward t) := by
  cases h : writeBack wb e s with
  | next t =>
    have hpc : t.pc = s.pc := by rw [writeBack_eq_next h]
    simp only [andThen_next, ← setPc_succ_eq_onward, hpc]
  | fault | refused => rfl

/-! ## From the effective address to the end -/

/-- Instruction `i`, of the fields `f`, has the uops `rd`, `op` and `wb`, its gate is on in `s`, and its effective address is
`e`. -/
structure RunsAt (i : Instr) (f : Basic) (rd : Rd) (op : Op) (wb : Wb) (s : State) (e : Addr) (mb : Word) : Prop where
  shape : ∃ g cond, shapeOf i = .uops g rd op cond wb ∧ g.admits s.config = true
  sequential : op.sequential = true
  ac : acOf (encode i) = f.ac
  ea : eaOf s (encode i) = .done e mb

namespace RunsAt

variable {i : Instr} {f : Basic} {rd : Rd} {op : Op} {wb : Wb} {s u : State} {e : Addr} {mb : Word}

theorem entered_eq (h : RunsAt i f rd op wb s e mb) : (s.latch (encode i)).setEa e mb = entered i f.ac e mb s := by
  rw [entered, ← h.ac]
  rfl

theorem exec_eq (h : RunsAt i f rd op wb s e mb) : ∃ cond, exec i s = execGeneric (encode i) rd op cond wb s := by
  obtain ⟨g, cond, hs, hg⟩ := h.shape
  exact ⟨cond, by rw [exec_eq_shape, hs, Shape.run, gated, if_pos hg]⟩

/-- With its operands read, an instruction operates, writes back and moves on (R125). -/
theorem exec_of_operands (h : RunsAt i f rd op wb s e mb) (hr : readOperands rd e (entered i f.ac e mb s) = .next u) :
    exec i s = andThen (writeBack wb e (operate op u)) fun t => .next (onward t) := by
  obtain ⟨cond, hx⟩ := h.exec_eq
  have hpc : u.pc = (operate op u).pc := (congrArg State.pc (operate_eq op u)).symm
  rw [← h.entered_eq] at hr
  rw [hx, execGeneric_of_done (ne_muuo_of_sequential h.sequential) h.ea hr, nextPc_of_sequential h.sequential, hpc,
    writeBack_then_setPc]

theorem exec_of_operand_fault {k : FaultKind} (h : RunsAt i f rd op wb s e mb)
    (hr : readOperands rd e ((s.latch (encode i)).setEa e mb) = raise k ((s.latch (encode i)).setEa e mb)) :
    exec i s = raise k (entered i f.ac e mb s) := by
  obtain ⟨cond, hx⟩ := h.exec_eq
  rw [hx, execGeneric_of_fault h.ea hr, h.entered_eq]
  rfl

/-- Up to the write-back an instruction has changed no memory, no accumulator and no parameter. -/
theorem operated (h : RunsAt i f rd op wb s e mb) (hr : readOperands rd e (entered i f.ac e mb s) = .next u) :
    Operated (encode i) op s (operate op u) :=
  operated_of_readOperands op (h.entered_eq ▸ hr)

/-! ### The reads -/

theorem read_mem {v : Word} (h : RunsAt i f .mem op wb s e mb) (hv : memRead s e = .ok v) :
    readOperands .mem e (entered i f.ac e mb s) = .next ((entered i f.ac e mb s).setAr v) :=
  h.entered_eq ▸ readOperands_mem_of_ok hv

theorem read_ac {v : Word} (h : RunsAt i f .ac op wb s e mb) (hv : s.fmAt f.ac = some v) :
    readOperands .ac e (entered i f.ac e mb s) = .next ((entered i f.ac e mb s).setAr v) :=
  h.entered_eq ▸ readOperands_ac_of_some (h.ac ▸ hv)

theorem exec_of_mem_error {k : FaultKind} (h : RunsAt i f .mem op wb s e mb) (hk : memRead s e = .error k) :
    exec i s = raise k (entered i f.ac e mb s) :=
  h.exec_of_operand_fault (readOperands_mem_of_error hk)

theorem exec_of_ac_none (h : RunsAt i f rd op wb s e mb) (hrd : rd = .ac ∨ rd = .acMem ∨ rd = .acImm)
    (hn : s.fmAt f.ac = none) : exec i s = raise (.undefinedRegister f.ac) (entered i f.ac e mb s) := by
  rw [← h.ac] at hn
  rw [h.exec_of_operand_fault (readOperands_of_none hrd hn), h.ac]

/-! ### The write-backs -/

/-- WB_AC leaves the result in `FM[AC]`. -/
theorem exec_to_ac (h : RunsAt i f rd op .ac s e mb) (hr : readOperands rd e (entered i f.ac e mb s) = .next u) :
    exec i s = .next (onward (setAc f.ac (operate op u).ar (operate op u))) := by
  rw [h.exec_of_operands hr, writeBack, (h.operated hr).ac, h.ac]
  rfl

/-- The state at the write-back still reaches the word that the entry state reaches. -/
theorem memWrite_eq (h : RunsAt i f rd op wb s e mb) (hr : readOperands rd e (entered i f.ac e mb s) = .next u)
    (hw : aliasesFm s e = true ∨ ∃ v, s.memGet e = some v) :
    memWrite e (operate op u).ar (operate op u) = .next (afterWrite e (operate op u).ar (operate op u)) :=
  memWrite_of_reached _ (by rwa [(h.operated hr).aliasesFm, (h.operated hr).memGet])

/-- WB_MEM stores the result where the address reaches an accumulator or a mapped word. -/
theorem exec_to_mem (h : RunsAt i f rd op .mem s e mb) (hr : readOperands rd e (entered i f.ac e mb s) = .next u)
    (hw : aliasesFm s e = true ∨ ∃ v, s.memGet e = some v) :
    exec i s = .next (onward (afterWrite e (operate op u).ar (operate op u))) := by
  rw [h.exec_of_operands hr, writeBack, h.memWrite_eq hr hw, andThen_next]

/-- WB_MEM makes an area where the address is unmapped, if the draw lets it. -/
theorem exec_to_new_area (h : RunsAt i f rd op .mem s e mb) (hr : readOperands rd e (entered i f.ac e mb s) = .next u)
    (ha : aliasesFm s e = false) (hm : s.memGet e = none) :
    exec i s = newAreaOutcome e (operate op u).ar (operate op u) := by
  rw [← (h.operated hr).aliasesFm] at ha
  rw [← (h.operated hr).memGet] at hm
  rw [h.exec_of_operands hr, writeBack, memWrite_of_unmapped _ ha hm]

/-- WB_SELF stores the result, and leaves it in `FM[AC]` too where AC is not 0. -/
theorem exec_to_self (h : RunsAt i f rd op .self s e mb) (hr : readOperands rd e (entered i f.ac e mb s) = .next u)
    (hw : aliasesFm s e = true ∨ ∃ v, s.memGet e = some v) :
    exec i s = .next (onward (setAcNonzero f.ac (operate op u).ar (afterWrite e (operate op u).ar (operate op u)))) := by
  have hac : (afterWrite e (operate op u).ar (operate op u)).ac = f.ac := by
    rw [afterWrite_ac, (h.operated hr).ac, h.ac]
  have har := afterWrite_ar e (operate op u).ar (operate op u)
  rw [h.exec_of_operands hr, writeBack, h.memWrite_eq hr hw, andThen_next, andThen_next, hac, har]
  rfl

end RunsAt

end Sys2Proof.Machine
end

section
/-! PROOFS. The MOVE and MOVN families settled (41_move.md R161 to R168): each is its uops, and what those read and leave. -/

namespace Sys2Proof.Machine

open Claims

/-- The negative modulo 2^36, in the words of R165. -/
theorem ofNat_two_pow_sub (v : Word) : BitVec.ofNat 36 (2 ^ 36 - v.toNat) = -v :=
  BitVec.eq_of_toNat_eq (by simp)

theorem ofNat_two_pow_sub_addr (e : Addr) : BitVec.ofNat 36 (2 ^ 36 - e.toNat) = -zext36 e := by
  rw [← ofNat_two_pow_sub, zext36, BitVec.toNat_setWidth_of_le (by decide)]

/-- Settles O28: RD_MEM or RD_IMM, then WB_AC. -/
theorem moveAndMoveiLoad : Obligations.MoveAndMoveiLoad := by
  intro f s e mb
  refine ⟨opOf_assemble _ f, opOf_assemble _ f, fun he => ?_, fun he => ?_⟩
  · have h : RunsAt (.move f) f .mem .pass .ac s e mb := ⟨⟨_, _, rfl, rfl⟩, rfl, acOf_assemble _ f, he⟩
    exact ⟨fun v hv => h.exec_to_ac (h.read_mem hv), fun k => h.exec_of_mem_error⟩
  · have h : RunsAt (.movei f) f .imm .pass .ac s e mb := ⟨⟨_, _, rfl, rfl⟩, rfl, acOf_assemble _ f, he⟩
    rw [BitVec.ofNat_toNat]
    exact h.exec_to_ac rfl

/-- Settles O29: RD_AC, then WB_MEM. -/
theorem movemStoresTheAccumulator : Obligations.MovemStoresTheAccumulator := by
  intro f s e mb
  refine ⟨opOf_assemble _ f, fun he => ?_⟩
  have h : RunsAt (.movem f) f .ac .pass .mem s e mb := ⟨⟨_, _, rfl, rfl⟩, rfl, acOf_assemble _ f, he⟩
  exact ⟨fun v hv => h.exec_to_mem (h.read_ac hv), fun v hv => h.exec_to_new_area (h.read_ac hv), h.exec_of_ac_none (.inl rfl)⟩

/-- Settles O30: RD_MEM, then WB_SELF; an address that reads is one that the write reaches. -/
theorem movesAndMovnsInPlace : Obligations.MovesAndMovnsInPlace := by
  intro f s e mb
  refine ⟨opOf_assemble _ f, opOf_assemble _ f, fun hg he => ?_, fun hg he => ?_⟩
  · have h : RunsAt (.moves f) f .mem .pass .self s e mb := ⟨⟨_, _, rfl, hg⟩, rfl, acOf_assemble _ f, he⟩
    exact ⟨fun v hv => h.exec_to_self (h.read_mem hv) (reached_of_memRead hv), fun k => h.exec_of_mem_error⟩
  · have h : RunsAt (.movns f) f .mem .neg .self s e mb := ⟨⟨_, _, rfl, hg⟩, rfl, acOf_assemble _ f, he⟩
    refine ⟨fun v r hv hr => ?_, fun k => h.exec_of_mem_error⟩
    rw [hr, ofNat_two_pow_sub]
    exact h.exec_to_self (h.read_mem hv) (reached_of_memRead hv)

/-- Settles O31: RD_MEM or RD_IMM, OP_NEG, then WB_AC. -/
theorem movnAndMovniLoadTheNegative : Obligations.MovnAndMovniLoadTheNegative := by
  intro f s e mb
  refine ⟨opOf_assemble _ f, opOf_assemble _ f, fun he => ?_, fun hg he r hr => ?_⟩
  · have h : RunsAt (.movn f) f .mem .neg .ac s e mb := ⟨⟨_, _, rfl, rfl⟩, rfl, acOf_assemble _ f, he⟩
    refine ⟨fun v r hv hr => ?_, fun k => h.exec_of_mem_error⟩
    rw [hr, ofNat_two_pow_sub]
    exact h.exec_to_ac (h.read_mem hv)
  · have h : RunsAt (.movni f) f .imm .neg .ac s e mb := ⟨⟨_, _, rfl, hg⟩, rfl, acOf_assemble _ f, he⟩
    rw [hr, ofNat_two_pow_sub_addr]
    exact h.exec_to_ac rfl

/-- Settles O32: RD_AC, OP_NEG, then WB_MEM. -/
theorem movnmStoresTheNegative : Obligations.MovnmStoresTheNegative := by
  intro f s e mb
  refine ⟨opOf_assemble _ f, fun hg he => ?_⟩
  have h : RunsAt (.movnm f) f .ac .neg .mem s e mb := ⟨⟨_, _, rfl, hg⟩, rfl, acOf_assemble _ f, he⟩
  refine ⟨fun v r hv hr => ?_, fun v r hv hr => ?_, h.exec_of_ac_none (.inl rfl)⟩
  all_goals rw [hr, ofNat_two_pow_sub]
  · exact h.exec_to_mem (h.read_ac hv)
  · exact h.exec_to_new_area (h.read_ac hv)

end Sys2Proof.Machine
end

section
/-! PROOFS. The ADD and SUB families settled (42_add_sub.md R181 to R188): the reads of two operands, the accumulator first, the
write-back to both places, and the results in the words of the rules. -/

namespace Sys2Proof.Machine

open Claims

namespace RunsAt

variable {i : Instr} {f : Basic} {rd : Rd} {op : Op} {wb : Wb} {s : State} {e : Addr} {mb : Word}

/-! ## The reads of two operands -/

theorem read_acMem {u v : Word} (h : RunsAt i f .acMem op wb s e mb) (hu : s.fmAt f.ac = some u) (hv : memRead s e = .ok v) :
    readOperands .acMem e (entered i f.ac e mb s) = .next (((entered i f.ac e mb s).setAr u).setBr v) :=
  h.entered_eq ▸ readOperands_acMem_of_ok (h.ac ▸ hu) hv

theorem read_acImm {u : Word} (h : RunsAt i f .acImm op wb s e mb) (hu : s.fmAt f.ac = some u) :
    readOperands .acImm e (entered i f.ac e mb s) = .next (((entered i f.ac e mb s).setAr u).setBr (zext36 e)) :=
  h.entered_eq ▸ readOperands_acImm_of_some (h.ac ▸ hu)

/-- The fault of memory comes after the accumulator has been read into AR (R136). -/
theorem exec_of_acMem_error {u : Word} {k : FaultKind} (h : RunsAt i f .acMem op wb s e mb) (hu : s.fmAt f.ac = some u)
    (hk : memRead s e = .error k) : exec i s = raise k { entered i f.ac e mb s with ar := u } := by
  obtain ⟨cond, hx⟩ := h.exec_eq
  rw [hx, execGeneric_of_fault h.ea (readOperands_acMem_of_error (h.ac ▸ hu) hk), h.entered_eq]
  rfl

/-- RD_AC_MEM faults on the accumulator whatever memory holds, and on memory only where the accumulator holds a value
(42_add_sub.md R181). -/
theorem acMem_faults (h : RunsAt i f .acMem op wb s e mb) :
    (s.fmAt f.ac = none → exec i s = raise (.undefinedRegister f.ac) (entered i f.ac e mb s)) ∧
    ∀ u k, s.fmAt f.ac = some u → memRead s e = .error k → exec i s = raise k { entered i f.ac e mb s with ar := u } :=
  ⟨h.exec_of_ac_none (.inr (.inl rfl)), fun _ _ => h.exec_of_acMem_error⟩

/-! ## The write-back to both -/

/-- WB_BOTH stores the result, then leaves it in `FM[AC]`. -/
theorem exec_to_both {u : State} (h : RunsAt i f rd op .both s e mb)
    (hr : readOperands rd e (entered i f.ac e mb s) = .next u) (hw : aliasesFm s e = true ∨ ∃ v, s.memGet e = some v) :
    exec i s = .next (onward (setAc f.ac (operate op u).ar (afterWrite e (operate op u).ar (operate op u)))) := by
  have hac : (afterWrite e (operate op u).ar (operate op u)).ac = f.ac := by
    rw [afterWrite_ac, (h.operated hr).ac, h.ac]
  have har := afterWrite_ar e (operate op u).ar (operate op u)
  rw [h.exec_of_operands hr, writeBack, h.memWrite_eq hr hw, andThen_next, andThen_next, hac, har]
  rfl

end RunsAt

/-! ## The results in the words of the rules -/

theorem toNat_zext36 (e : Addr) : (zext36 e).toNat = e.toNat :=
  BitVec.toNat_setWidth_of_le (by decide)

theorem ofInt_toNat_sub_toNat (u v : Word) : BitVec.ofInt 36 ((u.toNat : Int) - v.toNat) = u - v := by
  apply BitVec.eq_of_toInt_eq
  rw [BitVec.toInt_ofInt, BitVec.toInt_sub, BitVec.toInt_eq_toNat_bmod, BitVec.toInt_eq_toNat_bmod, ← Int.sub_bmod]

theorem ofNat_toNat_add_addr (u : Word) (e : Addr) : BitVec.ofNat 36 (u.toNat + e.toNat) = u + zext36 e := by
  rw [BitVec.add_def, toNat_zext36]

theorem ofInt_toNat_sub_addr (u : Word) (e : Addr) : BitVec.ofInt 36 ((u.toNat : Int) - e.toNat) = u - zext36 e := by
  rw [← ofInt_toNat_sub_toNat, toNat_zext36]

/-! ## The instructions -/

/-- Settles O33: RD_AC_MEM, OP_ADD or OP_SUB, then WB_AC. -/
theorem addAndSubToTheAccumulator : Obligations.AddAndSubToTheAccumulator := by
  intro f s e mb
  refine ⟨opOf_assemble _ f, opOf_assemble _ f, fun he => ?_, fun he => ?_⟩
  · have h : RunsAt (.add f) f .acMem .add .ac s e mb := ⟨⟨_, _, rfl, rfl⟩, rfl, acOf_assemble _ f, he⟩
    refine ⟨fun u v r hu hv hr => ?_, h.acMem_faults⟩
    rw [hr, ← BitVec.add_def]
    exact h.exec_to_ac (h.read_acMem hu hv)
  · have h : RunsAt (.sub f) f .acMem .sub .ac s e mb := ⟨⟨_, _, rfl, rfl⟩, rfl, acOf_assemble _ f, he⟩
    refine ⟨fun u v r hu hv hr => ?_, h.acMem_faults⟩
    rw [hr, ofInt_toNat_sub_toNat]
    exact h.exec_to_ac (h.read_acMem hu hv)

/-- Settles O34: RD_AC_IMM, OP_ADD or OP_SUB, then WB_AC. -/
theorem addiAndSubiImmediate : Obligations.AddiAndSubiImmediate := by
  intro f s e mb
  refine ⟨opOf_assemble _ f, opOf_assemble _ f, fun he => ?_, fun hg he => ?_⟩
  · have h : RunsAt (.addi f) f .acImm .add .ac s e mb := ⟨⟨_, _, rfl, rfl⟩, rfl, acOf_assemble _ f, he⟩
    refine ⟨fun u r hu hr => ?_, h.exec_of_ac_none (.inr (.inr rfl))⟩
    rw [hr, ofNat_toNat_add_addr, BitVec.ofNat_toNat]
    exact h.exec_to_ac (h.read_acImm hu)
  · have h : RunsAt (.subi f) f .acImm .sub .ac s e mb := ⟨⟨_, _, rfl, hg⟩, rfl, acOf_assemble _ f, he⟩
    refine ⟨fun u r hu hr => ?_, h.exec_of_ac_none (.inr (.inr rfl))⟩
    rw [hr, ofInt_toNat_sub_addr, BitVec.ofNat_toNat]
    exact h.exec_to_ac (h.read_acImm hu)

/-- Settles O35: RD_AC_MEM, OP_ADD or OP_SUB, then WB_MEM; an address that reads is one that the write reaches. -/
theorem addmAndSubmToMemory : Obligations.AddmAndSubmToMemory := by
  intro f s e mb
  refine ⟨opOf_assemble _ f, opOf_assemble _ f, fun hg he => ?_, fun hg he => ?_⟩
  · have h : RunsAt (.addm f) f .acMem .add .mem s e mb := ⟨⟨_, _, rfl, hg⟩, rfl, acOf_assemble _ f, he⟩
    refine ⟨fun u v r hu hv hr => ?_, h.acMem_faults⟩
    rw [hr, ← BitVec.add_def]
    exact h.exec_to_mem (h.read_acMem hu hv) (reached_of_memRead hv)
  · have h : RunsAt (.subm f) f .acMem .sub .mem s e mb := ⟨⟨_, _, rfl, hg⟩, rfl, acOf_assemble _ f, he⟩
    refine ⟨fun u v r hu hv hr => ?_, h.acMem_faults⟩
    rw [hr, ofInt_toNat_sub_toNat]
    exact h.exec_to_mem (h.read_acMem hu hv) (reached_of_memRead hv)

/-- Settles O36: RD_AC_MEM, OP_ADD or OP_SUB, then WB_BOTH, which reaches every address that reads. -/
theorem addbAndSubbToBoth : Obligations.AddbAndSubbToBoth := by
  intro f s e mb
  refine ⟨opOf_assemble _ f, opOf_assemble _ f, fun hg he => ?_, fun hg he => ?_⟩
  · have h : RunsAt (.addb f) f .acMem .add .both s e mb := ⟨⟨_, _, rfl, hg⟩, rfl, acOf_assemble _ f, he⟩
    refine ⟨fun u v r hu hv hr => ?_, h.acMem_faults⟩
    rw [hr, ← BitVec.add_def]
    exact h.exec_to_both (h.read_acMem hu hv) (reached_of_memRead hv)
  · have h : RunsAt (.subb f) f .acMem .sub .both s e mb := ⟨⟨_, _, rfl, hg⟩, rfl, acOf_assemble _ f, he⟩
    refine ⟨fun u v r hu hv hr => ?_, h.acMem_faults⟩
    rw [hr, ofInt_toNat_sub_toNat]
    exact h.exec_to_both (h.read_acMem hu hv) (reached_of_memRead hv)

end Sys2Proof.Machine
end

section
/-! PROOFS. The JUMP and SKIP families settled (43_jump_skip.md R200, R204, R210 to R227): the eight conditions as the rule's
table, the uops of each family with its condition code, and where the step then ends. Then the words of the basic format that
the spec leaves without a meaning (R203, 44_monitor_unspecified.md R247, R250, R259, R260). -/

namespace Sys2Proof.Machine

open Claims

/-! ## The condition code -/

theorem condHolds_iff_test (c : BitVec 3) (v : Word) : condHolds c v = true ↔ test c v.toInt := by
  obtain ⟨n, hn⟩ := c
  interval_cases n <;> simp [condHolds, test]

/-- The gate of a JUMP or a SKIP: L is always admitted, the other conditions by the compare class (30_encoding.md R86). -/
def condGate (c : BitVec 3) : Gate := if c = 1 then .open else .cmpClass

theorem condGate_admits {c : BitVec 3} {k : Config} (h : c = 1 ∨ k.admitCmpClass = true) : (condGate c).admits k = true := by
  unfold condGate
  split
  · rfl
  next hc => exact h.resolve_left hc

/-! ## The rows of the families -/

theorem shapeOf_jumpOf_eq (c : BitVec 3) (f : Basic) : shapeOf (jumpOf c f) = .uops (condGate c) .ac .jump c .none := by
  obtain ⟨n, hn⟩ := c
  interval_cases n <;> rfl

theorem shapeOf_skipOf_eq (c : BitVec 3) (f : Basic) : shapeOf (skipOf c f) = .uops (condGate c) .mem .skip c .acNz := by
  obtain ⟨n, hn⟩ := c
  interval_cases n <;> rfl

theorem encode_jumpOf (c : BitVec 3) (f : Basic) : encode (jumpOf c f) = assemble (BitVec.ofNat 9 (0o320 + c.toNat)) f := by
  obtain ⟨n, hn⟩ := c
  interval_cases n <;> rfl

theorem encode_skipOf (c : BitVec 3) (f : Basic) : encode (skipOf c f) = assemble (BitVec.ofNat 9 (0o330 + c.toNat)) f := by
  obtain ⟨n, hn⟩ := c
  interval_cases n <;> rfl

theorem opOf_encode_jumpOf (c : BitVec 3) (f : Basic) : opOf (encode (jumpOf c f)) = BitVec.ofNat 9 (0o320 + c.toNat) := by
  rw [encode_jumpOf, opOf_assemble]

theorem opOf_encode_skipOf (c : BitVec 3) (f : Basic) : opOf (encode (skipOf c f)) = BitVec.ofNat 9 (0o330 + c.toNat) := by
  rw [encode_skipOf, opOf_assemble]

theorem acOf_encode_jumpOf (c : BitVec 3) (f : Basic) : acOf (encode (jumpOf c f)) = f.ac := by
  rw [encode_jumpOf, acOf_assemble]

/-- OP[2:0] of an opcode in a row of eight is its place in the row. -/
theorem setWidth_ofNat_row {n : Nat} (h : 8 ∣ n) (c : BitVec 3) : (BitVec.ofNat 9 (n + c.toNat)).setWidth 3 = c := by
  apply BitVec.eq_of_toNat_eq
  rw [BitVec.toNat_setWidth, BitVec.toNat_ofNat]
  omega

/-- Settles O37: the table case by case; the opcodes of each family are eight in a row, in the order of the condition codes. -/
theorem conditionTable : Obligations.ConditionTable := by
  refine fun c v => ⟨condHolds_iff_test c v, ?_, fun f => ⟨?_, ?_⟩⟩
  · rw [BitVec.toInt_eq_msb_cond, BitVec.msb_eq_getLsbD_last]
    rfl
  · rw [opOf_encode_jumpOf, setWidth_ofNat_row (by decide)]
  · rw [opOf_encode_skipOf, setWidth_ofNat_row (by decide)]

/-! ## From the effective address to the end -/

/-- Where its gate is on, an instruction runs its uops. -/
theorem exec_of_gate_on {i : Instr} {g : Gate} {rd : Rd} {op : Op} {cond : BitVec 3} {wb : Wb} {s : State}
    (hs : shapeOf i = .uops g rd op cond wb) (hg : g.admits s.config = true) :
    exec i s = execGeneric (encode i) rd op cond wb s := by
  rw [exec_eq_shape, hs, Shape.run, gated, if_pos hg]

theorem latch_setEa_eq_entered {i : Instr} {ac : AcNum} (h : acOf (encode i) = ac) (e : Addr) (mb : Word) (s : State) :
    (s.latch (encode i)).setEa e mb = entered i ac e mb s := by
  subst h
  rfl

/-- WB_AC_NZ leaves AR in `FM[AC]` where AC is not 0. -/
theorem writeBack_acNz (e : Addr) (s : State) : writeBack .acNz e s = .next (setAcNonzero s.ac s.ar s) := rfl

theorem setAcNonzero_pc (i : AcNum) (v : Word) (s : State) : (setAcNonzero i v s).pc = s.pc := by
  unfold setAcNonzero
  split <;> rfl

section Family

variable {c : BitVec 3} {f : Basic} {s : State} {e : Addr} {mb : Word}

/-- With its accumulator read into AR, a JUMP ends at E or one past PC, as its condition says (R204). -/
theorem exec_jumpOf_of_some {v : Word} (hg : c = 1 ∨ s.config.admitCmpClass = true)
    (he : eaOf s (encode (jumpOf c f)) = .done e mb) (hv : s.fmAt f.ac = some v) :
    exec (jumpOf c f) s =
      .next ({ entered (jumpOf c f) f.ac e mb s with ar := v }.setPc (if condHolds c v then e else s.pc + 1)) := by
  have hac := acOf_encode_jumpOf c f
  rw [exec_of_gate_on (shapeOf_jumpOf_eq c f) (condGate_admits hg), ← latch_setEa_eq_entered hac]
  exact execGeneric_of_done nofun he (readOperands_ac_of_some (hac ▸ hv))

theorem exec_jumpOf_of_none (hg : c = 1 ∨ s.config.admitCmpClass = true)
    (he : eaOf s (encode (jumpOf c f)) = .done e mb) (hn : s.fmAt f.ac = none) :
    exec (jumpOf c f) s = raise (.undefinedRegister f.ac) (entered (jumpOf c f) f.ac e mb s) := by
  have hac := acOf_encode_jumpOf c f
  rw [exec_of_gate_on (shapeOf_jumpOf_eq c f) (condGate_admits hg), ← latch_setEa_eq_entered hac, ← hac]
  exact execGeneric_of_fault he (readOperands_of_none (.inl rfl) (hac ▸ hn))

/-- With memory read into AR, a SKIP leaves it in `FM[AC]` where AC is not 0, and ends two or one past PC, as its condition
says (R218). -/
theorem exec_skipOf_of_ok {v : Word} (hg : c = 1 ∨ s.config.admitCmpClass = true)
    (he : eaOf s (encode (skipOf c f)) = .done e mb) (hv : memRead s e = .ok v) :
    exec (skipOf c f) s =
      .next ((setAcNonzero f.ac v { entered (skipOf c f) f.ac e mb s with ar := v }).setPc
        (if condHolds c v then s.pc + 2 else s.pc + 1)) := by
  have hac := acOf_encode_skipOf c f
  rw [exec_of_gate_on (shapeOf_skipOf_eq c f) (condGate_admits hg), ← latch_setEa_eq_entered hac, ← hac,
    execGeneric_of_done (by decide) he (readOperands_mem_of_ok hv), writeBack_acNz, andThen_next]
  rfl

theorem exec_skipOf_of_error {k : FaultKind} (hg : c = 1 ∨ s.config.admitCmpClass = true)
    (he : eaOf s (encode (skipOf c f)) = .done e mb) (hk : memRead s e = .error k) :
    exec (skipOf c f) s = raise k (entered (skipOf c f) f.ac e mb s) := by
  rw [exec_of_gate_on (shapeOf_skipOf_eq c f) (condGate_admits hg), ← latch_setEa_eq_entered (acOf_encode_skipOf c f)]
  exact execGeneric_of_fault he (readOperands_mem_of_error hk)

end Family

/-! ## The families -/

/-- Settles O40: RD_AC, then OP_JUMP under the condition of the opcode. -/
theorem jumpFamily : Obligations.JumpFamily := by
  refine fun c f s e mb => ⟨opOf_encode_jumpOf c f, fun hg he => ⟨fun v hv => ?_, exec_jumpOf_of_none hg he⟩⟩
  rw [exec_jumpOf_of_some hg he hv, ← condHolds_iff_test]
  refine ⟨fun ht => ?_, fun hf => ?_⟩
  · rw [if_pos ht]
    rfl
  · rw [if_neg hf, ← setPc_succ_eq_onward]
    rfl

/-- Settles O41: RD_MEM, then OP_SKIP under the condition of the opcode and WB_AC_NZ. -/
theorem skipFamily : Obligations.SkipFamily := by
  refine fun c f s e mb => ⟨opOf_encode_skipOf c f, fun hg he => ⟨fun v hv => ?_, fun k => exec_skipOf_of_error hg he⟩⟩
  have hpc := setAcNonzero_pc f.ac v { entered (skipOf c f) f.ac e mb s with ar := v }
  rw [exec_skipOf_of_ok hg he hv, ← condHolds_iff_test]
  refine ⟨fun ht => ?_, fun hf => ?_⟩
  · rw [if_pos ht]
    rfl
  · rw [if_neg hf, ← setPc_succ_eq_onward, hpc]
    rfl

/-! ## Words without a meaning -/

/-- An instruction without a meaning writes IR and ends the run, before any effective address (40_decode_dispatch.md R124). -/
theorem exec_of_refused {i : Instr} {r : Reason} (hs : shapeOf i = .refused r) (s : State) :
    exec i s = .refused (.declined (.instr r) { s with ir := encode i, status := .refused (.instr r) }) := by
  rw [exec_eq_shape, hs]
  rfl

/-- Settles O45: the meaning of each of the five rows is a refusal with its reason. -/
theorem unspecifiedWordsRefused : Obligations.UnspecifiedWordsRefused := by
  refine fun f w s => ⟨⟨?_, ?_, ?_, ?_, ?_, rfl⟩, ?_, ?_, ?_, ?_, ?_⟩
  case refine_1 | refine_2 | refine_3 | refine_4 => exact opOf_assemble _ f
  case refine_5 => exact acOf_assemble _ f
  all_goals exact exec_of_refused rfl s

end Sys2Proof.Machine
end

section
/-! PROOFS. Monitor calls and words of the IO format (44_monitor_unspecified.md R240 to R246, R251 to R258): the hand-off by call
number and by reply, what the memory writes and registers of a `Continue` may change, and the refusals by FN. -/

namespace Sys2Proof.Machine

open Claims

/-! ## Words of the IO format -/

/-- Settles O44: the row of the IO format that FN names has a refusal for its shape, whatever DEV, I, X and Y hold. -/
theorem ioWordsRefused : Obligations.IoWordsRefused := by
  refine fun f s c => ⟨fun w hw hfn => ?_, fun w hw hfn => ?_, fun i hi => ?_, fun i hi => ?_, ?_⟩
  case refine_1 | refine_2 =>
    rw [dec_of_io c hw]
    generalize fnOf w = fn at hfn
    fin_cases hfn <;> rfl
  case refine_3 | refine_4 => fin_cases hi <;> exact exec_of_refused rfl s
  case refine_5 => simp only [encode, fnOf_assembleIo]

/-! ## The switch on the call number -/

section Call

variable {w : Word} {e : Addr} {s : State}

theorem muuoCall_of_logout (h : namedService s.config (callNumber s w e) = some .dotLogout) :
    muuoCall w e s = .next (s.setStatus .exit) := by
  rw [muuoCall, h]

theorem muuoCall_of_unnamed (h : namedService s.config (callNumber s w e) = none) :
    muuoCall w e s = raise (.muuoUnimplemented (callNumber s w e)) s := by
  rw [muuoCall, h]

/-! ## The reply of a service -/

variable {rest : List ServiceReply}

theorem drawReply_of_script {r : ServiceReply} (h : s.serviceScript = r :: rest) :
    drawReply w e s = (r, { s with serviceScript := rest, draws := s.draws + 1 }) := by
  rw [drawReply, h]

theorem servedCall_of_cont {eff : ServiceEffect} (h : s.serviceScript = .cont eff :: rest) :
    servedCall w e s = serviceContinue eff { s with serviceScript := rest, draws := s.draws + 1 } := by
  rw [servedCall, drawReply_of_script h]

theorem servedCall_of_fault {k : ServiceFault} (h : s.serviceScript = .fault k :: rest) :
    servedCall w e s = raise (k.kind (callNumber s w e)) { s with serviceScript := rest, draws := s.draws + 1 } := by
  rw [servedCall, drawReply_of_script h]

theorem servedCall_of_noReturn (h : s.serviceScript = .noReturn :: rest) : servedCall w e s = .fault (.stuck s) := by
  rw [servedCall, drawReply_of_script h]

end Call

/-- The accumulators that a service leaves depend on those that it found, and on nothing else. -/
theorem serviceFm_congr (ws : List (AcNum × Word)) {s t : State} (h : s.fm = t.fm) :
    (serviceFm ws s).fm = (serviceFm ws t).fm := by
  induction ws generalizing s t with
  | nil => exact h
  | cons x ws ih => exact ih (by simp [h])

theorem serviceRegs_of_fm {eff : ServiceEffect} {s t : State} (h : s.fm = t.fm) :
    serviceRegs eff t = { t with fm := (serviceFm eff.fm s).fm, flags := eff.flags.getD t.flags, pc := eff.pc } := by
  rw [serviceRegs, serviceFm_eq eff.fm t, serviceFm_congr eff.fm h]

/-- A `Continue` with no host step and no memory write sets its registers and cannot fail. -/
theorem serviceContinue_of_registers {eff : ServiceEffect} (hh : eff.host = []) (hm : eff.mem = []) (s : State) :
    serviceContinue eff s = .next (serviceRegs eff s) := by
  rw [serviceContinue, hh, hm]
  rfl

/-! ## The monitor calls -/

/-- The monitor calls, in order, are encoded by the opcodes of `muuo_opcodes` (30_encoding.md R87). -/
theorem encode_monitorCalls (f : Basic) :
    (monitorCalls f).map encode = muuoOpcodes.map fun n => assemble (BitVec.ofNat 9 n) f := rfl

theorem opOf_monitorCalls (f : Basic) : (monitorCalls f).map (fun i => (opOf (encode i)).toNat) = muuoOpcodes := by
  calc (monitorCalls f).map (fun i => (opOf (encode i)).toNat)
      = ((monitorCalls f).map encode).map fun w => (opOf w).toNat := by rw [List.map_map]; rfl
    _ = muuoOpcodes.map fun n => (BitVec.ofNat 9 n).toNat := by
      rw [encode_monitorCalls, List.map_map]
      simp only [Function.comp_def, opOf_assemble]
    _ = muuoOpcodes := by decide

/-- A monitor call whose EA calculation is done is the hand-off at the state that the claims name. -/
theorem exec_monitorCall {f : Basic} {i : Instr} {s : State} {e : Addr} {mb : Word} (hi : monitorCall f i)
    (he : eaOf s (encode i) = .done e mb) : exec i s = muuoCall (encode i) e (entered i f.ac e mb s) := by
  rw [exec_of_gate_on (shapeOf_monitorCall hi) rfl, execGeneric_muuo he, entered_of_monitorCall hi]

/-- Settles O42: the call number picks the outcome, and for a served call the head of the script does. -/
theorem monitorCallHandsOff : Obligations.MonitorCallHandsOff := by
  refine ⟨opOf_monitorCalls, fun f i s e mb hi he => ?_⟩
  rw [exec_monitorCall hi he]
  refine ⟨muuoCall_of_logout, muuoCall_of_unnamed, fun v rest hv hne => ?_⟩
  rw [muuoCall_of_served hv hne]
  have hcont {eff : ServiceEffect} (hs : s.serviceScript = .cont eff :: rest) :=
    servedCall_of_cont (w := encode i) (e := e) (s := entered i f.ac e mb s) hs
  have hfault {k : ServiceFault} (hs : s.serviceScript = .fault k :: rest) :=
    servedCall_of_fault (w := encode i) (e := e) (s := entered i f.ac e mb s) hs
  refine ⟨fun eff => hcont, fun eff hs hh hm => ?_, hfault, fun a acc => hfault, hfault,
    fun hs => servedCall_of_noReturn hs⟩
  exact (hcont hs).trans ((serviceContinue_of_registers hh hm _).trans (congrArg _ (serviceRegs_of_fm rfl)))

/-! ## The memory writes of a service -/

/-- A write by the block changes FM, memory and slots alone, and counts the draw of an allocation. -/
theorem memWrite_changes {a : Addr} {v : Word} {s t : State} (h : memWrite a v s = .next t) :
    t = { s with fm := t.fm, mem := t.mem, slots := t.slots, draws := t.draws, allocScript := t.allocScript } := by
  obtain ⟨-, rfl⟩ | ⟨-, m, d, l, rfl, -, -⟩ := memWrite_eq_next h <;> rfl

theorem aliasesFm_memWrite {a : Addr} {v : Word} {s t : State} (h : memWrite a v s = .next t) (b : Addr) :
    aliasesFm t b = aliasesFm s b := by
  rw [memWrite_changes h]
  rfl

/-- What every write in the list keeps, the list keeps: each write may use that it is in the list. -/
theorem serviceWrites_keeps_of_mem {P : State → Prop} {ws : List (Addr × Word)}
    (hP : ∀ p ∈ ws, ∀ s t, P s → memWrite p.1 p.2 s = .next t → P t) {s t : State} (hs : P s)
    (h : serviceWrites ws s = .next t) : P t := by
  induction ws generalizing s with
  | nil => cases h; exact hs
  | cons x ws ih =>
    obtain ⟨u, hu, h⟩ := andThen_eq_next.mp h
    exact ih (fun p hp => hP p (.tail _ hp)) (hP x (.head _) s u hs hu) h

section Writes

variable {ws : List (Addr × Word)} {s t : State}

theorem serviceWrites_changes (h : serviceWrites ws s = .next t) :
    t = { s with fm := t.fm, mem := t.mem, slots := t.slots, draws := t.draws, allocScript := t.allocScript } := by
  refine serviceWrites_keeps (P := fun u =>
    u = { s with fm := u.fm, mem := u.mem, slots := u.slots, draws := u.draws, allocScript := u.allocScript }) ?_ rfl h
  intro a v u u' hu hw
  rw [memWrite_changes hw, hu]

theorem serviceWrites_unwritten {a : Addr} (ha : ∀ p ∈ ws, p.1 ≠ a) (h : serviceWrites ws s = .next t) :
    t.memGet a = s.memGet a ∧ t.slotAt a = s.slotAt a := by
  refine serviceWrites_keeps_of_mem (P := fun u => u.memGet a = s.memGet a ∧ u.slotAt a = s.slotAt a) ?_ ⟨rfl, rfl⟩ h
  intro p hp u u' ⟨hmem, hslot⟩ hw
  obtain ⟨hmem', hslot'⟩ := (memWrite_frame hw).1 a (ha p hp).symm
  exact ⟨hmem'.trans hmem, hslot'.trans hslot⟩

theorem serviceWrites_to_memory_fm (ha : ∀ p ∈ ws, aliasesFm s p.1 = false) (h : serviceWrites ws s = .next t) :
    t.fm = s.fm := by
  have hkeep : t.fm = s.fm ∧ ∀ a, aliasesFm t a = aliasesFm s a := by
    refine serviceWrites_keeps_of_mem (P := fun u => u.fm = s.fm ∧ ∀ a, aliasesFm u a = aliasesFm s a) ?_
      ⟨rfl, fun _ => rfl⟩ h
    intro p hp u u' ⟨hfm, hal⟩ hw
    obtain ⟨-, -, hfm'⟩ := memWrite_to_memory hw ((hal p.1).trans (ha p hp))
    exact ⟨hfm'.trans hfm, fun a => (aliasesFm_memWrite hw a).trans (hal a)⟩
  exact hkeep.1

/-- A write by the block turns no slot that is STUB into another. -/
theorem memWrite_keeps_stub {a b : Addr} {v : Word} (hs : s.slotAt b = .stub) (h : memWrite a v s = .next t) :
    t.slotAt b = .stub := by
  obtain ⟨hne, hal, -⟩ := memWrite_frame h
  by_cases hb : b = a
  · subst hb
    cases ha : aliasesFm s b with
    | true => exact (hal ha).2.trans hs
    | false => exact (memWrite_to_memory h ha).2.1
  · exact (hne b hb).2.trans hs

theorem serviceWrites_stub {p : Addr × Word} (hp : p ∈ ws) (ha : aliasesFm s p.1 = false)
    (h : serviceWrites ws s = .next t) : t.slotAt p.1 = .stub := by
  induction ws generalizing s with
  | nil => cases hp
  | cons x ws ih =>
    obtain ⟨u, hu, hws⟩ := andThen_eq_next.mp h
    cases hp with
    | head =>
      obtain ⟨-, hstub, -⟩ := memWrite_to_memory hu ha
      exact serviceWrites_keeps (P := fun u => u.slotAt p.1 = .stub) (fun _ _ _ _ => memWrite_keeps_stub) hstub hws
    | tail _ hp => exact ih hp ((aliasesFm_memWrite hu p.1).trans ha) hws

end Writes

/-! ## The registers of a service -/

theorem fmAt_serviceFm {ws : List (AcNum × Word)} {i : AcNum} (hi : ∀ p ∈ ws, p.1 ≠ i) (s : State) :
    (serviceFm ws s).fmAt i = s.fmAt i := by
  induction ws generalizing s with
  | nil => rfl
  | cons x ws ih =>
    rw [List.forall_mem_cons] at hi
    exact (ih hi.2 _).trans (State.fmAt_setFm_ne s x.2 hi.1.symm)

theorem memGet_serviceRegs (eff : ServiceEffect) (s : State) (a : Addr) : (serviceRegs eff s).memGet a = s.memGet a := by
  rw [serviceRegs_eq]
  rfl

theorem slotAt_serviceRegs (eff : ServiceEffect) (s : State) (a : Addr) : (serviceRegs eff s).slotAt a = s.slotAt a := by
  rw [serviceRegs_eq]
  rfl

/-- With no host step inside it, a `Continue` is its memory writes and then its registers. -/
theorem serviceContinue_eq_next {eff : ServiceEffect} {s t : State} (h : serviceContinue eff s = .next t)
    (hh : eff.host = []) : ∃ u, serviceWrites eff.mem s = .next u ∧ t = serviceRegs eff u := by
  rw [serviceContinue, hh, hostSteps, andThen_next] at h
  obtain ⟨u, hu, ht⟩ := andThen_eq_next.mp h
  cases ht
  exact ⟨u, hu, rfl⟩

/-- Settles O43: each part by what the memory writes keep, since the registers written after them are PC, FM and flags. -/
theorem serviceChangesOnlyWhatItMay : Obligations.ServiceChangesOnlyWhatItMay := by
  intro eff s t h hh
  obtain ⟨u, hu, rfl⟩ := serviceContinue_eq_next h hh
  have hchanges := serviceWrites_changes hu
  refine ⟨rfl, ?_, fun hf => ?_, fun a ha => ?_, fun p hp ha => ?_, fun i hi ha => ?_⟩
  · rw [serviceRegs_eq, hchanges]
  · rw [serviceRegs, hf, hchanges]
    rfl
  · rw [memGet_serviceRegs, slotAt_serviceRegs]
    exact serviceWrites_unwritten ha hu
  · rw [slotAt_serviceRegs]
    exact serviceWrites_stub hp ha hu
  · exact (fmAt_serviceFm hi u).trans (congrArg (·[i.toNat]) (serviceWrites_to_memory_fm ha hu))

end Sys2Proof.Machine
end

section
/-! PROOFS. The ends of a run (60_exceptions.md R270 to R277): which uop can raise which fault and what it has changed by then,
which instruction ends a run with Exit, and what a refusal keeps. -/

namespace Sys2Proof.Machine

open Claims

/-! ## Faults of reads -/

theorem readFm_eq_error {s : State} {i : AcNum} {k : FaultKind} (h : readFm s i = .error k) :
    k = .undefinedRegister i ∧ s.fmAt i = none := by
  cases hv : s.fmAt i with
  | some v => cases (readFm_of_some hv).symm.trans h
  | none => cases (readFm_of_none hv).symm.trans h; exact ⟨rfl, rfl⟩

/-- The faults of EA calculation (40_decode_dispatch.md R129): the read of an accumulator that holds ⊥, and that of an unmapped
word. -/
def IsReadFault (s : State) (k : FaultKind) : Prop :=
  (∃ j, k = .undefinedRegister j ∧ s.fmAt j = none) ∨ ∃ a, k = .unmapped a .read ∧ s.memGet a = none

theorem isReadFault_of_readFm {s : State} {i : AcNum} {k : FaultKind} (h : readFm s i = .error k) : IsReadFault s k :=
  .inl ⟨i, readFm_eq_error h⟩

theorem isReadFault_of_memRead {s : State} {a : Addr} {k : FaultKind} (h : memRead s a = .error k) : IsReadFault s k := by
  cases ha : aliasesFm s a with
  | true => exact isReadFault_of_readFm ((memRead_of_aliases ha).symm.trans h)
  | false =>
    cases hm : s.memGet a with
    | some v => cases (memRead_of_some ha hm).symm.trans h
    | none => cases (memRead_of_none ha hm).symm.trans h; exact .inr ⟨a, rfl, hm⟩

theorem isReadFault_of_indexed {s : State} {w : Word} {k : FaultKind} (h : indexed s w = .error k) : IsReadFault s k := by
  by_cases hx : xOf w = 0
  · cases (indexed_of_x_zero s hx).symm.trans h
  · cases hv : s.fmAt (xOf w) with
    | some v => cases (indexed_of_some hx hv).symm.trans h
    | none => cases (indexed_of_none hx hv).symm.trans h; exact .inl ⟨xOf w, rfl, hv⟩

/-- Each level of EA calculation faults in its index or in its fetch. -/
theorem isReadFault_of_calcEA {s : State} {n : Nat} {w mb mb' : Word} {k : FaultKind}
    (h : calcEA n s w mb = .fault k mb') : IsReadFault s k := by
  induction n generalizing w mb with
  | zero => cases h
  | succ n ih =>
    cases he : indexed s w with
    | error j => cases (calcEA_of_indexed_error he n mb).symm.trans h; exact isReadFault_of_indexed he
    | ok e =>
      cases hi : indOf w with
      | false => cases (calcEA_of_direct he hi n mb).symm.trans h
      | true =>
        cases hr : memRead s e with
        | error j => cases (calcEA_of_read_error he hi hr n mb).symm.trans h; exact isReadFault_of_memRead hr
        | ok v => exact ih ((calcEA_of_indirect he hi hr n mb).symm.trans h)

/-! ## Faults of the uops -/

/-- A read that the read-operands uop `rd` makes faults (40_decode_dispatch.md R136): that of `FM[AC]`, or that of the operand. -/
def OperandFault (rd : Rd) (e : Addr) (s : State) (ac : AcNum) (k : FaultKind) : Prop :=
  (rd ∈ [Rd.ac, .acMem, .acImm] ∧ k = .undefinedRegister ac ∧ s.fmAt ac = none) ∨
  (rd ∈ [Rd.mem, .acMem] ∧ memRead s e = .error k)

/-- Read-operands faults in a read of its own uop, with AR written by the first read of RD_AC_MEM at most. -/
theorem operandFault_of_readOperands {rd : Rd} {e : Addr} {s : State} {x : Fault} (h : readOperands rd e s = .fault x) :
    ∃ k v, OperandFault rd e s s.ac k ∧ x = .raised k ((s.setAr v).setStatus (.fault k)) := by
  cases rd <;> simp only [readOperands, withRead_eq_fault, reduceCtorEq, and_false, exists_false, or_false] at h
  case mem =>
    obtain ⟨k, hk, rfl⟩ := h
    exact ⟨k, s.ar, .inr ⟨by decide, hk⟩, rfl⟩
  case ac | acImm =>
    obtain ⟨k, hk, rfl⟩ := h
    exact ⟨k, s.ar, .inl ⟨by decide, readFm_eq_error hk⟩, rfl⟩
  case acMem =>
    obtain ⟨k, hk, rfl⟩ | ⟨u, -, k, hk, rfl⟩ := h
    · exact ⟨k, s.ar, .inl ⟨by decide, readFm_eq_error hk⟩, rfl⟩
    · exact ⟨k, u, .inr ⟨by decide, hk⟩, rfl⟩

/-- The faults of a generic step, each with the uop that raises it and the state it keeps. -/
inductive UopsFault (w : Word) (rd : Rd) (wb : Wb) (s : State) : Fault → Prop where
  | ea {k : FaultKind} {mb : Word} : eaOf s w = .fault k mb →
      UopsFault w rd wb s (.raised k (((s.latch w).setMb mb).setStatus (.fault k)))
  | read {e : Addr} {mb v : Word} {k : FaultKind} : eaOf s w = .done e mb → OperandFault rd e s (acOf w) k →
      UopsFault w rd wb s (.raised k ((((s.latch w).setEa e mb).setAr v).setStatus (.fault k)))
  | alloc {e : Addr} {mb : Word} {op : Op} {m : State} : eaOf s w = .done e mb → wb ∈ [Wb.mem, .both, .self] →
      s.memGet e = none → aliasesFm s e = false → Operated w op s m →
      UopsFault w rd wb s (.raised .outOfMemory ((drawAlloc m).2.setStatus (.fault .outOfMemory)))

theorem uopsFault_of_execGeneric {w : Word} {rd : Rd} {op : Op} {cond : BitVec 3} {wb : Wb} {s : State} {x : Fault}
    (hop : op ≠ .muuo) (h : execGeneric w rd op cond wb s = .fault x) : UopsFault w rd wb s x := by
  obtain ⟨k, mb, he, rfl⟩ | ⟨e, mb, he, hr | ⟨u, hu, hw⟩⟩ := execGeneric_eq_fault hop h
  · exact .ea he
  · obtain ⟨k, v, hk, rfl⟩ := operandFault_of_readOperands hr
    exact .read he hk
  · have hm := operated_of_readOperands op hu
    obtain ⟨hwb, hw⟩ := writeBack_eq_fault hw
    obtain ⟨ha, hg, rfl⟩ := memWrite_eq_fault hw
    exact .alloc he (by simpa using hwb) ((hm.memGet e).symm.trans hg) ((hm.aliasesFm e).symm.trans ha) hm

/-- Outside the monitor calls an instruction that faults is run by its uops; a refused word and the fast path raise no fault. -/
theorem exec_eq_fault {i : Instr} {s : State} {x : Fault} (hi : ∀ f, ¬ monitorCall f i) (h : exec i s = .fault x) :
    ∃ g rd op cond wb, shapeOf i = .uops g rd op cond wb ∧ g.admits s.config = true ∧ UopsFault (encode i) rd wb s x := by
  cases hs : shapeOf i with
  | uops g rd op cond wb =>
    have hop : op ≠ .muuo := by
      rintro rfl
      obtain ⟨⟨f, hf⟩, -⟩ := shapeOf_muuo hs
      exact hi f hf
    cases hg : g.admits s.config with
    | true =>
      exact ⟨g, rd, op, cond, wb, rfl, hg, uopsFault_of_execGeneric hop ((exec_of_gate_on hs hg).symm.trans h)⟩
    | false => cases (exec_of_gate_off hs hg).symm.trans h
  | fast y =>
    rw [exec_eq_shape, hs] at h
    cases h
  | refused r => cases (exec_of_refused hs s).symm.trans h

/-- Settles O55: no uop before a fault writes PC, FM, memory or slots. -/
theorem faultIsPrecise : Obligations.FaultIsPrecise := by
  intro i s t k hi h
  obtain ⟨g, rd, op, cond, wb, -, -, hx⟩ := exec_eq_fault hi h
  cases hx with
  | ea | read => rfl
  | alloc _ _ _ _ hm => rw [drawAlloc_snd, hm.eq]; rfl

/-- A well-formed instruction whose gate is on is decoded to the uops of its shape (40_decode_dispatch.md R111). -/
theorem dec_encode_of_gate_on {i : Instr} {g : Gate} {rd : Rd} {op : Op} {cond : BitVec 3} {wb : Wb} {c : Config}
    (hwf : i.wf = true) (hs : shapeOf i = .uops g rd op cond wb) (hg : g.admits c = true) :
    dec c (encode i) = .generic (encode i) rd op cond wb := by
  rw [dec_eq_sel_shapeOf, decodeInvertsEncode i hwf, hs]
  exact if_pos hg

/-- Settles O56, by the uop that raises the fault. -/
theorem whichFaults : Obligations.WhichFaults := by
  intro i s x hwf hi h
  obtain ⟨g, rd, op, cond, wb, hs, hg, hx⟩ := exec_eq_fault hi h
  refine ⟨rd, op, cond, wb, dec_encode_of_gate_on hwf hs hg, ?_⟩
  cases hx with
  | ea he => exact .inl ⟨_, _, _, he, rfl, isReadFault_of_calcEA he⟩
  | read he hk =>
    obtain ⟨hrd, rfl, hac⟩ | ⟨hrd, hr⟩ := hk
    · exact .inr ⟨_, _, _, he, .inl ⟨hrd, rfl, hac⟩⟩
    · exact .inr ⟨_, _, _, he, .inr (.inl ⟨hrd, _, rfl, hr⟩)⟩
  | alloc he hwb hm ha => exact .inr ⟨_, _, _, he, .inr (.inr ⟨hwb, rfl, hm, ha⟩)⟩

/-! ## The normal end -/

/-- A host operation in a running machine leaves it running (10_state.md R34, R35). -/
theorem HostGoesOn.keeps_running {op : HostOp} {s t : State} (h : HostGoesOn s op t) (hr : s.status = .running) :
    t.status = .running := by
  cases h with
  | noRoom | newArea => rw [drawAlloc_snd]; exact hr
  | setWordAt _ h | writeMemory _ h => obtain ⟨m, d, l, rfl, -, -⟩ := setWordAt_eq_next h; exact hr
  | run => rfl
  | duplicate | invalidateWord | purePage | unpurePage | unmappedPage | getWordAt | setAddress | getNext => exact hr

/-- A `Continue` lets the program go on (44_monitor_unspecified.md R240). -/
theorem serviceContinue_keeps_running {eff : ServiceEffect} {s t : State} (hr : s.status = .running)
    (h : serviceContinue eff s = .next t) : t.status = .running := by
  refine serviceContinue_keeps (P := fun u => u.status = .running) (fun _ _ _ _ hu hv => hv.keeps_running hu)
    (fun a v u u' hu hw => ?_) (fun u hu => ?_) hr h
  · rw [memWrite_changes hw]; exact hu
  · rw [serviceRegs_eq]; exact hu

/-- A monitor call that gives a next state is `.LOGOUT`, which ends the run, or leaves the machine running. -/
theorem muuoCall_running_or_exit {w : Word} {e : Addr} {s t : State} (h : muuoCall w e s = .next t)
    (hr : s.status = .running) :
    t.status = .running ∨ (t.status = .exit ∧ namedService s.config (callNumber s w e) = some .dotLogout) := by
  obtain ⟨hn, rfl⟩ | ⟨eff, -, h⟩ := muuoCall_eq_next h
  · exact .inr ⟨rfl, hn⟩
  · refine .inl (serviceContinue_keeps_running ?_ h)
    rw [drawReply_snd]
    exact hr

/-- Settles O57: outside the monitor calls no uop writes the status. -/
theorem exitOnlyByMonitorCall : Obligations.ExitOnlyByMonitorCall := by
  intro i s t hr h
  cases exec_eq_next h with
  | hang | fast => exact .inl hr
  | uops hs hop =>
    obtain ⟨-, hst, -, -⟩ := exec_keeps_rest (not_monitorCall_of_shapeOf hs hop) h
    exact .inl (hst.trans hr)
  | call hf he hm =>
    rw [← entered_of_monitorCall hf] at hm
    exact (muuoCall_running_or_exit hm hr).imp_right fun ⟨hx, hn⟩ => ⟨hx, _, _, _, hf, he, hn⟩

/-! ## Refusals -/

/-- The refusal is the one that `refuse` makes of the state, for some reason (R271). -/
def RefusedAt (s : State) (r : Refusal) : Prop := ∃ k, r = .declined k (s.setStatus (.refused k))

theorem refusedAt_of_refuse {α : Type} {k : RefuseReason} {s : State} {r : Refusal}
    (h : (refuse k s : Host.Outcome α Fault Refusal) = .refused r) : RefusedAt s r := by
  cases h
  exact ⟨k, rfl⟩

theorem withAddr_eq_refused {a : Nat} {s : State} {k : Addr → HostResult} {r : Refusal}
    (h : withAddr a s k = .refused r) : RefusedAt s r ∨ k (BitVec.ofNat 18 a) = .refused r := by
  unfold withAddr at h
  split at h
  · exact .inr h
  · exact .inl (refusedAt_of_refuse h)

theorem withWord_eq_refused {w : Nat} {s : State} {k : Word → HostResult} {r : Refusal}
    (h : withWord w s k = .refused r) : RefusedAt s r ∨ k (BitVec.ofNat 36 w) = .refused r := by
  unfold withWord at h
  split at h
  · exact .inr h
  · exact .inl (refusedAt_of_refuse h)

theorem doneWith_ne_refused {q : Result} (hq : ∀ r, q ≠ .refused r) (r : Refusal) : doneWith q ≠ .refused r := by
  rw [doneWith, ne_eq, andThen_eq_refused]
  rintro (h | ⟨u, -, h⟩)
  · exact hq r h
  · cases h

theorem writeMemory_ne_refused (a : Addr) (w : Word) (s : State) (r : Refusal) : writeMemory a w s ≠ .refused r := by
  rw [writeMemory, ne_eq, andThen_eq_refused]
  rintro (h | ⟨u, -, h⟩)
  · exact setWordAt_ne_refused h
  · cases h

theorem addMemory_eq_refused {a : Nat} {data : List Nat} {s : State} {r : Refusal}
    (h : addMemory a data s = .refused r) : RefusedAt s r := by
  unfold addMemory at h
  split at h
  · exact refusedAt_of_refuse h
  split at h
  · exact refusedAt_of_refuse h
  split at h
  · cases h
  split at h
  · exact refusedAt_of_refuse h
  split at h <;> cases h

theorem hostRun_eq_refused {start : Nat} {memory : Memory} {s : State} {r : Refusal}
    (h : hostRun start memory s = .refused r) : RefusedAt s r := by
  unfold hostRun at h
  split at h
  · exact refusedAt_of_refuse h
  split at h
  · exact refusedAt_of_refuse h
  · cases h

theorem getNext_ne_refused (s : State) (r : Refusal) : getNext s ≠ .refused r := by
  unfold getNext
  split <;> nofun

/-- A host operation checks everything before it changes anything: a refusal keeps the state. -/
theorem hostOp_eq_refused {op : HostOp} {s : State} {r : Refusal} (h : hostOp op s = .refused r) : RefusedAt s r := by
  cases op <;> simp only [hostOp] at h
  case addMemory => exact addMemory_eq_refused h
  case setWordAt =>
    refine (withAddr_eq_refused h).elim id fun h => (withWord_eq_refused h).resolve_right ?_
    exact doneWith_ne_refused (fun _ => setWordAt_ne_refused) r
  case writeMemory =>
    refine (withAddr_eq_refused h).elim id fun h => (withWord_eq_refused h).resolve_right ?_
    exact doneWith_ne_refused (writeMemory_ne_refused _ _ s) r
  case invalidateWord | purePage | unpurePage | unmappedPage | getWordAt => exact (withAddr_eq_refused h).resolve_right nofun
  case run => exact hostRun_eq_refused h
  case setAddress =>
    split at h
    · cases h
    · exact refusedAt_of_refuse h
  case getNext => exact absurd h (getNext_ne_refused s r)

theorem dropReply_eq_refused {q : HostResult} {r : Refusal} : dropReply q = .refused r ↔ q = .refused r := by
  cases q <;> simp [dropReply]

/-- In a running machine host steps in order are refused at the state that the last of them found. -/
theorem hostSteps_eq_refused {ops : List HostOp} {s : State} {r : Refusal} (h : hostSteps ops s = .refused r)
    (hr : s.status = .running) : ∃ u, RefusedAt u r := by
  induction ops generalizing s with
  | nil => cases h
  | cons op ops ih =>
    rw [hostSteps_cons, andThen_eq_refused, dropReply_eq_refused, hostStep_of_running hr] at h
    obtain h | ⟨u, hu, h⟩ := h
    · exact ⟨s, hostOp_eq_refused h⟩
    · obtain ⟨x, hx⟩ := dropReply_eq_next.mp hu
      exact ih h ((hostOp_eq_next hx).keeps_running hr)

theorem serviceWrites_ne_refused {ws : List (Addr × Word)} {s : State} {r : Refusal} : serviceWrites ws s ≠ .refused r := by
  induction ws generalizing s with
  | nil => nofun
  | cons x ws ih =>
    rw [serviceWrites, ne_eq, andThen_eq_refused]
    rintro (h | ⟨u, -, h⟩)
    · exact memWrite_ne_refused h
    · exact ih h

/-- A monitor call in a running machine is refused by a host step of its reply. -/
theorem muuoCall_refusedAt {w : Word} {e : Addr} {s : State} {r : Refusal} (h : muuoCall w e s = .refused r)
    (hr : s.status = .running) : ∃ u, RefusedAt u r := by
  obtain ⟨eff, -, h⟩ := muuoCall_eq_refused h
  rw [serviceContinue, drawReply_snd, andThen_eq_refused] at h
  obtain h | ⟨t, -, h⟩ := h
  · exact hostSteps_eq_refused h hr
  · obtain h | ⟨u, -, h⟩ := andThen_eq_refused.mp h
    · exact absurd h serviceWrites_ne_refused
    · cases h

theorem execMuuo_eq_refused {w : Word} {cond : BitVec 3} {s : State} {r : Refusal}
    (h : execGeneric w .none .muuo cond .none s = .refused r) :
    ∃ e mb, muuoCall w e ((s.latch w).setEa e mb) = .refused r := by
  cases he : eaOf s w with
  | hang => cases (execGeneric_of_hang _ _ _ _ he).symm.trans h
  | fault k mb => cases (execGeneric_of_ea_fault _ _ _ _ he).symm.trans h
  | done e mb => exact ⟨e, mb, (execGeneric_muuo he).symm.trans h⟩

/-- An instruction is refused by the decoder, on entry (40_decode_dispatch.md R124), or in a monitor call. -/
theorem exec_eq_refused {i : Instr} {s : State} {r : Refusal} (h : exec i s = .refused r) :
    (∃ k, r = .declined (.instr k) { s with ir := encode i, status := .refused (.instr k) }) ∨
    ∃ f e mb, monitorCall f i ∧ muuoCall (encode i) e ((s.latch (encode i)).setEa e mb) = .refused r := by
  cases hs : shapeOf i with
  | uops g rd op cond wb =>
    cases hg : g.admits s.config with
    | false => cases (exec_of_gate_off hs hg).symm.trans h; exact .inl ⟨.notAdmitted, rfl⟩
    | true =>
      rw [exec_of_gate_on hs hg] at h
      by_cases hop : op = .muuo
      · subst hop
        obtain ⟨⟨f, hf⟩, hb⟩ := shapeOf_muuo hs
        cases hs.symm.trans hb
        obtain ⟨e, mb, hm⟩ := execMuuo_eq_refused h
        exact .inr ⟨f, e, mb, hf, hm⟩
      · exact absurd h (execGeneric_ne_refused hop)
  | fast y =>
    rw [exec_eq_shape, hs] at h
    cases h
  | refused k => cases (exec_of_refused hs s).symm.trans h; exact .inl ⟨k, rfl⟩

/-- Settles O60: the decoder refuses on entry, and the service of a monitor call by a host step of its reply. -/
theorem refusalKeepsTheState : Obligations.RefusalKeepsTheState := by
  intro i s r hr h
  obtain ⟨k, rfl⟩ | ⟨f, e, mb, hf, hm⟩ := exec_eq_refused h
  · exact ⟨⟨_, _, rfl, rfl⟩, fun _ => ⟨k, rfl⟩⟩
  · obtain ⟨u, k, rfl⟩ := muuoCall_refusedAt hm hr
    exact ⟨⟨k, _, rfl, rfl⟩, fun hi => absurd hf (hi f)⟩

end Sys2Proof.Machine
end

section
/-! PROOFS. The start of the process and the host's hold on the registers (70_reset_and_hazards.md R300): what the two reset
states hold, and that of the registers a host operation writes PC alone, and that only by `run`. -/

namespace Sys2Proof.Machine

/-! ## The accumulators of the two reset states -/

@[simp] theorem State.fmAt_reset (i : AcNum) : State.reset.fmAt i = some 0 := Vector.getElem_replicate i.isLt

@[simp] theorem State.fmAt_resetUnwritten (i : AcNum) : State.resetUnwritten.fmAt i = none := Vector.getElem_replicate i.isLt

/-- Settles O50: at either start the table is empty, and the accumulators all hold one value. -/
theorem resetState : Obligations.ResetState :=
  ⟨fun _ => rfl, rfl, rfl, rfl, rfl, rfl,
    fun i => ⟨State.fmAt_resetUnwritten i, readFm_of_none (State.fmAt_resetUnwritten i)⟩,
    fun i => readFm_of_some (State.fmAt_reset i)⟩

/-! ## PC under the host operations -/

/-- PC gets its value from `run` and from no other host operation (10_state.md R32, R35). -/
theorem HostGoesOn.keeps_pc {op : HostOp} {s t : State} (h : HostGoesOn s op t) (hrun : ∀ start m, op ≠ .run start m) :
    t.pc = s.pc ∧ t.started = s.started := by
  cases h with
  | run => exact absurd rfl (hrun _ _)
  | noRoom | newArea => rw [drawAlloc_snd]; exact ⟨rfl, rfl⟩
  | setWordAt _ h | writeMemory _ h => obtain ⟨m, d, l, rfl, -, -⟩ := setWordAt_eq_next h; exact ⟨rfl, rfl⟩
  | duplicate | invalidateWord | purePage | unpurePage | unmappedPage | getWordAt | setAddress | getNext => exact ⟨rfl, rfl⟩

/-- Settles O26, by what a host operation that answers can have done. -/
theorem hostStepWritesNoRegister : Obligations.HostStepWritesNoRegister := by
  intro op s t r h
  obtain ⟨hr, h⟩ := hostStep_eq_next h
  have hstatus := h.keeps_running hr
  have hpc := h.keeps_pc
  rw [h.keeps_registers]
  exact ⟨rfl, rfl, rfl, rfl, rfl, rfl, rfl, rfl, rfl, hstatus, rfl, hpc⟩

end Sys2Proof.Machine
end
